-- ==== Sys2Proof/Word.lean ====
section
/-! DEFINITION. The word types of the meter-link block and the opaque tokens of the card reader. -/

namespace Sys2Proof

/-- A byte of a frame. -/
abbrev Byte := BitVec 8

/-- A 16-bit value: a remote register's address or contents, or a CRC. -/
abbrev Word := BitVec 16

/-- A 32-bit count of milliseconds: a value of NOW or a timeout (R28). -/
abbrev Ms := BitVec 32

/-- A 32-bit volume in centiliters, the wire unit (R101). -/
abbrev Centiliters := BitVec 32

/-- A card's identifier: a token with decidable equality that the MLB stores and forwards and never
inspects (R4). DESIGN CHOICE, log 7: the tokens are numbered. -/
structure CardId where
  token : Nat
deriving DecidableEq, Repr, Inhabited

/-- A driver's plate: a token of the same kind (R4). DESIGN CHOICE, log 7. -/
structure Plate where
  token : Nat
deriving DecidableEq, Repr, Inhabited

end Sys2Proof
end

