-- ==== Sys2Proof/Machine/Operands.lean ====
section
/-! DEFINITION. The operand forms: the fields of a command word (R54, R56), the byte orders of a frame
(R34 to R36), and the byte sequences the frames are made of (R46 to R50). -/

namespace Sys2Proof.Machine

/-- `w[15:8]`. -/
def hiByte (w : Word) : Byte := w.extractLsb' 8 8

/-- `w[7:0]`. -/
def loByte (w : Word) : Byte := w.extractLsb' 0 8

/-- `u16(hi, lo)` = `(hi << 8) | lo` (R5). -/
def u16 (hi lo : Byte) : Word := (hi.setWidth 16 <<< 8) ||| lo.setWidth 16

/-- `u32(hi16, lo16)` = `(hi16 << 16) | lo16` (R5); the high word is at the lower register address (R36). -/
def u32 (hi lo : Word) : BitVec 32 := (hi.setWidth 32 <<< 16) ||| lo.setWidth 32

/-- The opcode OP = `cmd[7:0]` (R54). -/
def opcode (w : BitVec 64) : Byte := w.extractLsb' 0 8

/-- The fields D, A and N = `cmd[15:8]` (R56). -/
def fieldByte (w : BitVec 64) : Byte := w.extractLsb' 8 8

/-- The fields R and S = `cmd[31:16]` (R56). -/
def fieldLow (w : BitVec 64) : Word := w.extractLsb' 16 16

/-- The fields V and C = `cmd[47:32]` (R56). -/
def fieldHigh (w : BitVec 64) : Word := w.extractLsb' 32 16

/-- The field T = `cmd[47:16]` (R56). -/
def fieldTime (w : BitVec 64) : Ms := w.extractLsb' 16 32

/-- The bits 63:`k` are 0: the reserved bits of a word whose named fields end below bit `k` (R54). -/
def reservedZero (k : Nat) (w : BitVec 64) : Bool := w >>> k == 0#64

/-- Elapsed time from `t0`, modulo 2^32 (R28, R111). -/
def elapsed (now t0 : Ms) : Ms := now - t0

/-- The timer test `(Now() - start) mod 2^32 >= limit` (R111). -/
def timerDue (now start limit : Ms) : Bool := decide (limit ≤ elapsed now start)

/-- The six bytes a request's CRC covers: address, function code and two 16-bit fields, high byte first
(R47, R49). -/
def requestBody (a fn : Byte) (x y : Word) : List Byte :=
  [a, fn, hiByte x, loByte x, hiByte y, loByte y]

/-- The bytes of a read response that its CRC covers: address, function code 0x03, byteCount and data
(R50). -/
def responseBody (a : Byte) (data : List Byte) : List Byte :=
  a :: 0x03#8 :: BitVec.ofNat 8 data.length :: data

/-- The CRC field: low byte first (R35). -/
def crcField (c : Word) : List Byte := [loByte c, hiByte c]

/-- The eight bytes of a 64-bit table word of a frame: byte 0 is the leftmost of the table's pattern,
bits 63:56 (opcode_table.json; log 13). -/
def bytesOfWord (w : BitVec 64) : List Byte :=
  [w.extractLsb' 56 8, w.extractLsb' 48 8, w.extractLsb' 40 8, w.extractLsb' 32 8,
    w.extractLsb' 24 8, w.extractLsb' 16 8, w.extractLsb' 8 8, w.extractLsb' 0 8]

end Sys2Proof.Machine
end

