-- ==== Sys2Proof/Machine/Types.lean ====
section
/-! DEFINITION. The data the machine's State is made of: names the spec gives as a closed set, the records
of 10_state.md, the exchange in progress and the turns of the agents. -/

namespace Sys2Proof.Machine

/-- The four states of the session FSM (R11, R92). -/
inductive FsmState where
  | idle
  | sessionStarting
  | sessionActive
  | sessionClosing
deriving DecidableEq, Repr, Inhabited

/-- The ProtocolError taxonomy (R103). -/
inductive ProtocolError where
  | timeout
  | crcMismatch
  | addressOrFunctionMismatch
  | echoMismatch
  | unexpectedByteCount
deriving DecidableEq, Repr, Inhabited

/-- The status of a RECEIVE, WSR or RHR: Ok or one error (R18). -/
inductive Res where
  | ok
  | error (e : ProtocolError)
deriving DecidableEq, Repr, Inhabited

/-- Why a command is refused (R106). The machine records only the REFUSED mark. -/
inductive RefuseReason where
  | illegalCommand
  | sendWithoutFrame
  | readCountOutOfRange
deriving DecidableEq, Repr, Inhabited

/-- A MeterReading (R23). -/
structure MeterReading where
  status : Word
  sessionCl : Centiliters
  totalCl : Centiliters
  flowClPerMin : Word
deriving DecidableEq, Repr, Inhabited

/-- SESSION (R24); `none` is Empty. -/
structure Session where
  active : Bool
  driverId : Option CardId
  plate : Option Plate
  lastCl : Centiliters
deriving DecidableEq, Repr, Inhabited

/-- The configuration fields CFG[0..4] (R14). -/
structure Cfg where
  slaveAddress : Byte
  pollIntervalMs : Ms
  writeTimeoutMs : Ms
  readTimeoutMs : Ms
  summaryDisplayMs : Ms
deriving DecidableEq, Repr, Inhabited

/-- The OPEN parameters of R4 that are numbers: RX_CAPACITY (`none` is unbounded) and RX_POLL_MAX_MS. No
step changes them. -/
structure Params where
  rxCapacity : Option Nat
  rxPollMaxMs : Nat
deriving DecidableEq, Repr, Inhabited

/-- An entry of EVLOG (R102). -/
inductive Event where
  | started (plate : Plate)
  | updated (reading : MeterReading)
  | closed (finalCl : Centiliters)
  | rejected (id : CardId)
  | startFailed (e : ProtocolError)
  | idle
  | pollFailed (e : ProtocolError)
deriving DecidableEq, Repr, Inhabited

/-- A command on the command port: the 64-bit word and the side operands that travel beside it, which only
EV_CARD reads (R54, R55). -/
structure Command where
  word : BitVec 64
  id : CardId
  lookup : Option Plate
deriving DecidableEq, Repr, Inhabited

/-- Who started an exchange: a command of the host, or the session FSM (its start write or its poll). -/
inductive Caller where
  | host
  | fsm
deriving DecidableEq, Repr, Inhabited

/-- Which send awaits TxFlushed, with the operands its exchange still needs (R77, R84, R87, R89). -/
inductive Sender where
  | command
  | wsr (a : Byte) (r v : Word) (by_ : Caller)
  | rhr (a : Byte) (count : Word) (by_ : Caller)
deriving DecidableEq, Repr, Inhabited

/-- Which receive is open, with the operands its exchange still needs (R85, R87, R89). -/
inductive Receiver where
  | command
  | wsr (a : Byte) (r v : Word) (by_ : Caller)
  | header (a : Byte) (count : Word) (by_ : Caller)
  | body (count : Word) (header : List Byte) (by_ : Caller)
deriving DecidableEq, Repr, Inhabited

/-- A receive window: the local variables n, T, t0 and acc of R80, and the clock at the last check (R81). -/
structure Window where
  need : Nat
  limit : Ms
  t0 : Ms
  got : List Byte
  checkedAt : Ms
deriving DecidableEq, Repr, Inhabited

/-- Where the control loop is held (R9, R115): not at all, in the await of a send, or in the yield of a
receive. -/
inductive Activity where
  | none
  | sending (x : Sender)
  | receiving (x : Receiver) (w : Window)
deriving DecidableEq, Repr, Inhabited

/-- What reset takes from outside: the configuration input (R14, R119), and a value for each element whose
reset value R116 leaves free. `port` is what the host presents when reset is released. -/
structure ResetInput where
  cfg : Cfg
  now : Ms
  rxq : List Byte
  txBuf : Vector Byte 8
  rxBuf : Vector Byte 69
  regs : Vector Word 32
  lastPollMs : Ms
  closeMs : Ms
  port : List Command
deriving DecidableEq, Repr, Inhabited

/-- One turn of one agent (R9). -/
inductive Turn where
  /-- The control loop is scheduled. -/
  | mlb
  /-- The clock increments NOW. -/
  | clock
  /-- The line's UART finishes sending its `count` oldest bytes. -/
  | drain (count : Nat)
  /-- The line appends bytes to the receive buffer. -/
  | deliver (bytes : List Byte)
  /-- The host presents a command on the command port. -/
  | present (command : Command)
  /-- The environment resets the MLB (R118). -/
  | reset (input : ResetInput)
deriving DecidableEq, Repr, Inhabited

/-- The three whose turns come again and again: the clock and the UART's drain, which R9 and C8 assume weakly
fair, and the control loop, without which a send whose UART has drained would not end (C8, log 4). -/
inductive FairTurn where
  | clock
  | drain
  | mlb
deriving DecidableEq, Repr, Inhabited

end Sys2Proof.Machine
end

