-- ==== Sys2Proof/Syntax.lean ====
section
/-! DEFINITION. The instructions: one constructor per row of spec/opcode_table.json, ten command words
(R54) and four wire frames (R47 to R50). -/

namespace Sys2Proof

/-- One constructor per row of the opcode table, with the row's fields as operands. -/
inductive Instr where
  /-- CRC_INIT (R67). -/
  | crcInit
  /-- CRC_BYTE d (R68). -/
  | crcByte (d : Byte)
  /-- BUILD_WRITE a, r, v (R75). -/
  | buildWrite (a : Byte) (r v : Word)
  /-- BUILD_READ a, s, c (R76). -/
  | buildRead (a : Byte) (start count : Word)
  /-- SEND (R84). -/
  | send
  /-- RECEIVE n, t (R85). -/
  | receive (n : Byte) (t : Ms)
  /-- WSR a, r, v (R87). -/
  | wsr (a : Byte) (r v : Word)
  /-- RHR a, s, c (R89). -/
  | rhr (a : Byte) (start count : Word)
  /-- EV_CARD with its side operands (R55, R93). -/
  | evCard (id : CardId) (lookup : Option Plate)
  /-- EV_TICK (R96). -/
  | evTick
  /-- WREQ, the write request the MLB sends (R47). -/
  | wreq (a : Byte) (r v crc : Word)
  /-- WRSP, the write response the line delivers (R48). -/
  | wrsp (a : Byte) (r v crc : Word)
  /-- RREQ, the read request the MLB sends (R49). -/
  | rreq (a : Byte) (start count crc : Word)
  /-- RRSP, the read response the line delivers; its byteCount is the number of data bytes (R50). -/
  | rrsp (a : Byte) (data : List Byte) (crc : Word)
deriving DecidableEq, Repr

end Sys2Proof
end

