-- ==== Sys2Proof/Decode.lean ====
section
/-! DEFINITION. The decoder, total and rejecting by name, and the encoder (30_encoding.md): command words
(Part B) and wire frames (Part A). -/

namespace Sys2Proof

open Sys2Proof.Machine

/-- Why bytes or a word are no instruction. -/
inductive Reject where
  /-- OP is not in the table of R54. -/
  | undefinedOp
  /-- A reserved bit is set (R54, R57). -/
  | reservedBit
  /-- RECEIVE with N outside 1..69 (R57). -/
  | receiveLength
  /-- A frame whose function code is neither 0x06 nor 0x03 (R53). -/
  | functionCode
  /-- A frame whose length is not that of its format (R52). -/
  | frameLength
deriving DecidableEq, Repr

/-- What the machine decodes: a command with its side operands, a frame the MLB sends, or a frame the line
delivers. The direction tells WREQ from WRSP, whose bytes are the same (R48, R53, log 13). -/
inductive Encoded where
  | command (c : Command)
  | outbound (bytes : List Byte)
  | inbound (bytes : List Byte)
deriving DecidableEq, Repr

/-- The instruction `i`, if every bit from `k` up is 0 (R54). -/
def ifReservedZero (k : Nat) (w : BitVec 64) (i : Instr) : Except Reject Instr :=
  if reservedZero k w then .ok i else .error .reservedBit

/-- A RECEIVE whose length is in range (R57). -/
def checkReceive (n : Byte) (t : Ms) : Except Reject Instr :=
  if 1 ≤ n.toNat ∧ n.toNat ≤ 69 then .ok (.receive n t) else .error .receiveLength

/-- The command decoder (R54 to R57). -/
def decodeCommand (c : Command) : Except Reject Instr :=
  let w := c.word
  let op := opcode w
  if op = 0x01#8 then ifReservedZero 8 w .crcInit
  else if op = 0x02#8 then ifReservedZero 16 w (.crcByte (fieldByte w))
  else if op = 0x10#8 then ifReservedZero 48 w (.buildWrite (fieldByte w) (fieldLow w) (fieldHigh w))
  else if op = 0x11#8 then ifReservedZero 48 w (.buildRead (fieldByte w) (fieldLow w) (fieldHigh w))
  else if op = 0x20#8 then ifReservedZero 8 w .send
  else if op = 0x21#8 then
    if reservedZero 48 w then checkReceive (fieldByte w) (fieldTime w) else .error .reservedBit
  else if op = 0x30#8 then ifReservedZero 48 w (.wsr (fieldByte w) (fieldLow w) (fieldHigh w))
  else if op = 0x31#8 then ifReservedZero 48 w (.rhr (fieldByte w) (fieldLow w) (fieldHigh w))
  else if op = 0x40#8 then ifReservedZero 8 w (.evCard c.id c.lookup)
  else if op = 0x41#8 then ifReservedZero 8 w .evTick
  else .error .undefinedOp

/-- A frame the MLB sends: always 8 bytes, function code 0x06 or 0x03 (R47, R49, R52, R53). -/
def decodeOutbound : List Byte → Except Reject Instr
  | [a, fn, b2, b3, b4, b5, b6, b7] =>
    if fn = 0x06#8 then .ok (.wreq a (u16 b2 b3) (u16 b4 b5) (u16 b7 b6))
    else if fn = 0x03#8 then .ok (.rreq a (u16 b2 b3) (u16 b4 b5) (u16 b7 b6))
    else .error .functionCode
  | _ => .error .frameLength

/-- A write response's eight bytes (R48). -/
def decodeWriteResponse : List Byte → Except Reject Instr
  | [a, _, b2, b3, b4, b5, b6, b7] => .ok (.wrsp a (u16 b2 b3) (u16 b4 b5) (u16 b7 b6))
  | _ => .error .frameLength

/-- A read response, whose length is `3 + byteCount + 2` (R50, R52). -/
def decodeReadResponse : List Byte → Except Reject Instr
  | a :: _ :: n :: rest =>
    if rest.length = n.toNat + 2 then
      .ok (.rrsp a (rest.take n.toNat) (u16 (rest.getD (n.toNat + 1) 0) (rest.getD n.toNat 0)))
    else .error .frameLength
  | _ => .error .frameLength

/-- A frame the line delivers: function code 0x06 with 8 bytes, or 0x03 with the length its byteCount says
(R52, R53). -/
def decodeInbound (bytes : List Byte) : Except Reject Instr :=
  match bytes with
  | _ :: fn :: _ =>
    if fn = 0x06#8 then decodeWriteResponse bytes
    else if fn = 0x03#8 then decodeReadResponse bytes
    else .error .functionCode
  | _ => .error .frameLength

/-- The decoder of all rows of the opcode table. -/
def decode : Encoded → Except Reject Instr
  | .command c => decodeCommand c
  | .outbound bytes => decodeOutbound bytes
  | .inbound bytes => decodeInbound bytes

/-! The encoder, written from the same tables. -/

/-- A command with no side operand of its own: the lines beside the word carry the zero token (log 23). -/
def plainCommand (w : BitVec 64) : Command := { word := w, id := ⟨0⟩, lookup := none }

/-- A word with the opcode alone (R54). -/
def wordOp (op : Byte) : BitVec 64 := op.setWidth 64

/-- A word with a byte field (R54). -/
def wordByte (op b : Byte) : BitVec 64 :=
  (b.setWidth 64 <<< 8) ||| op.setWidth 64

/-- A word with a byte field and two 16-bit fields (R54). -/
def wordTriple (op b : Byte) (low high : Word) : BitVec 64 :=
  (high.setWidth 64 <<< 32) ||| (low.setWidth 64 <<< 16) ||| (b.setWidth 64 <<< 8) ||| op.setWidth 64

/-- A word with a byte field and a 32-bit field (R54). -/
def wordTime (op b : Byte) (t : Ms) : BitVec 64 :=
  (t.setWidth 64 <<< 16) ||| (b.setWidth 64 <<< 8) ||| op.setWidth 64

/-- The command word or the frame bytes of an instruction (R47 to R50, R54). -/
def encode : Instr → Encoded
  | .crcInit => .command (plainCommand (wordOp 0x01#8))
  | .crcByte d => .command (plainCommand (wordByte 0x02#8 d))
  | .buildWrite a r v => .command (plainCommand (wordTriple 0x10#8 a r v))
  | .buildRead a start count => .command (plainCommand (wordTriple 0x11#8 a start count))
  | .send => .command (plainCommand (wordOp 0x20#8))
  | .receive n t => .command (plainCommand (wordTime 0x21#8 n t))
  | .wsr a r v => .command (plainCommand (wordTriple 0x30#8 a r v))
  | .rhr a start count => .command (plainCommand (wordTriple 0x31#8 a start count))
  | .evCard id lookup => .command { word := wordOp 0x40#8, id := id, lookup := lookup }
  | .evTick => .command (plainCommand (wordOp 0x41#8))
  | .wreq a r v crc => .outbound (requestBody a 0x06#8 r v ++ crcField crc)
  | .wrsp a r v crc => .inbound (requestBody a 0x06#8 r v ++ crcField crc)
  | .rreq a start count crc => .outbound (requestBody a 0x03#8 start count ++ crcField crc)
  | .rrsp a data crc => .inbound (responseBody a data ++ crcField crc)

/-! The words of spec/opcode_table.json. -/

/-- The bytes of a read response whose 24-bit header is `h` and whose data and CRC bytes are all 0: the table
gives the header's bits alone (its fields a = 23:16, byteCount = 7:0). -/
def readResponseOfHeader (h : BitVec 24) : List Byte :=
  let count : Byte := h.extractLsb' 0 8
  [h.extractLsb' 16 8, h.extractLsb' 8 8, count] ++ List.replicate (count.toNat + 2) 0#8

/-- What a table word stands for: 24 bits are the header of a read response; a 64-bit word is a command word
where the command decoder takes it, else the frame it is the pattern of, byte 0 leftmost, which the table's
first row for that pattern says the MLB sends (log 13). -/
def encodedOfTableWord (nbits w : Nat) : Encoded :=
  if nbits = 24 then .inbound (readResponseOfHeader (BitVec.ofNat 24 w))
  else
    let x := BitVec.ofNat 64 (w % 2 ^ nbits)
    match decodeCommand (plainCommand x), decodeOutbound (bytesOfWord x) with
    | .error _, .ok _ => .outbound (bytesOfWord x)
    | _, _ => .command (plainCommand x)

/-- The instruction the decoder reads from a table word. -/
def decodeTableWord (nbits w : Nat) : Option Instr := (decode (encodedOfTableWord nbits w)).toOption

end Sys2Proof
end

