-- ==== Sys2Proof/Machine/Crc16.lean ====
section
/-! DEFINITION. The CRC-16 generator's pure functions (R60 to R63, R71). -/

namespace Sys2Proof.Machine

/-- POLY of R60. -/
def poly : Word := 0xA001#16

/-- SEED of R60. -/
def seed : Word := 0xFFFF#16

/-- One bit step (R61): shift right by one, then XOR POLY if the bit shifted out was 1. -/
def bitstep (c : Word) : Word := if c.getLsbD 0 then (c >>> 1) ^^^ poly else c >>> 1

/-- `n` bit steps. -/
def bitsteps : Nat → Word → Word
  | 0, c => c
  | n + 1, c => bitsteps n (bitstep c)

/-- One byte step (R62): the byte enters the low end, then eight bit steps. -/
def bytestep (c : Word) (b : Byte) : Word := bitsteps 8 (c ^^^ b.setWidth 16)

/-- `CRC16(s)` (R63): the byte step folded over the sequence from the seed. -/
def crc16 (s : List Byte) : Word := s.foldl bytestep seed

/-- `crcOk(f)` (R71), for a sequence of at least two bytes; a shorter one has no CRC field. -/
def crcOk (f : List Byte) : Bool :=
  decide (2 ≤ f.length) &&
    u16 (f.getD (f.length - 1) 0) (f.getD (f.length - 2) 0) == crc16 (f.take (f.length - 2))

end Sys2Proof.Machine
end

