-- ==== Sys2Proof/Config.lean ====
section
/-! DEFINITION. What an implementation or the environment fixes: the parameters of R4, the reference
configuration, and the free values, which have no body. -/

namespace Sys2Proof.Config

open Sys2Proof Sys2Proof.Machine

/-- MAX_DATA_BYTES (R4). -/
def maxDataBytes : Nat := 64

/-- MAX_READ_COUNT (R4). -/
def maxReadCount : Nat := 32

/-- RXBUF_SIZE (R4). -/
def rxBufSize : Nat := 69

/-- BAUD in the reference deployment (R4); no rule reads it. -/
def referenceBaud : Nat := 19200

/-- CHAR_FORMAT in the reference deployment (R4), as data bits, parity bits and stop bits; no rule reads it. -/
def referenceCharFormat : Nat × Nat × Nat := (8, 0, 1)

/-- The reference-deployment values of CFG[0..4] (R4, R14). -/
def referenceCfg : Cfg :=
  { slaveAddress := 1#8, pollIntervalMs := 300#32, writeTimeoutMs := 100#32,
    readTimeoutMs := 100#32, summaryDisplayMs := 3000#32 }

/-- RX_CAPACITY less one, where the buffer is bounded: a free value (R4, log 5). -/
opaque rxCapacityPred : Option Nat

/-- RX_CAPACITY: at least 1, or unbounded (R4). -/
def rxCapacity : Option Nat := rxCapacityPred.map (· + 1)

/-- The choice of RX_POLL_MAX_MS: a free value (R4, log 5). -/
opaque rxPollChoice : Nat

/-- RX_POLL_MAX_MS: every value from 1 for which a reference timeout of 100 ms plus it is below 2^32
(R4). -/
def rxPollMaxMs : Nat := rxPollChoice % (2 ^ 32 - 101) + 1

/-- The turn the agents take where neither State nor fairness says which: the environment is unconstrained (R9,
R32, log 2). -/
opaque freeChoice : Nat → Turn

/-- How many of those turns pass before the next turn that fairness gives: any number (R9, log 4). -/
opaque freeGap : Nat → Nat

/-- The unspecified entries of RXBUF at and above RXLEN: the write's number, then the position (R17,
log 10). -/
opaque freeRxByte : Nat → Nat → Byte

/-- The unspecified entries of REGS at and above REGCOUNT: the write's number, then the position (I6,
log 11). -/
opaque freeReg : Nat → Nat → Word

end Sys2Proof.Config
end

