-- ==== Sys2Proof/Machine/State.lean ====
section
/-! DEFINITION. The machine's state (10_state.md), the reasons a step can stop, and the state after reset
(R116). -/

namespace Sys2Proof.Machine

/-- Every state element of 10_state.md, the OPEN parameters of R4, what the environment holds, and the
model's own bookkeeping. -/
@[ext]
structure State where
  /-- FSM_STATE (R11). -/
  fsm : FsmState
  /-- PREV_ACTIVE (R13). -/
  prevActive : Bool
  /-- SEED_PENDING (R26). -/
  seedPending : Bool
  /-- LAST_POLL_MS (R26). -/
  lastPollMs : Ms
  /-- CLOSE_MS (R26). -/
  closeMs : Ms
  /-- PENDING (R25). -/
  pending : Option (CardId × Plate)
  /-- SESSION (R24). -/
  session : Session
  /-- LAST_READING (R23). -/
  lastReading : Option MeterReading
  /-- CFG[0..4] (R14). -/
  cfg : Cfg
  /-- CRCREG (R15). -/
  crcReg : Word
  /-- TXBUF[0..7] (R16). -/
  txBuf : Vector Byte 8
  /-- TXVALID (R16). -/
  txValid : Bool
  /-- RXBUF[0..68] (R17). -/
  rxBuf : Vector Byte 69
  /-- RXLEN (R17). -/
  rxLen : BitVec 7
  /-- RES (R18). -/
  res : Res
  /-- REGS[0..31] (R18). -/
  regs : Vector Word 32
  /-- REGCOUNT (R18). -/
  regCount : BitVec 6
  /-- DE, the direction line: `true` is transmit (R19). -/
  de : Bool
  /-- BUSY (R22). -/
  busy : Bool
  /-- REFUSED, sticky (R29). -/
  refused : Bool
  /-- RXQ, oldest byte first (R20). -/
  rxq : List Byte
  /-- TXTRACE: every byte pushed, with DE at the push, oldest first (R21). -/
  txTrace : List (Byte × Bool)
  /-- EVLOG, oldest event first (R27). -/
  evLog : List Event
  /-- NOW (R28). -/
  now : Ms
  /-- RX_CAPACITY and RX_POLL_MAX_MS (R4). -/
  params : Params
  /-- The line's transmitter: bytes handed over that have not left the UART, oldest first (R21). -/
  uart : List Byte
  /-- The commands presented on the command port and not yet accepted, oldest first (R22). -/
  port : List Command
  /-- Where the control loop is held, with the exchange in progress (R9, R115). -/
  activity : Activity
  /-- MODEL: the coming turns of the agents (log 2). -/
  agenda : List Turn
  /-- MODEL: the number of turns taken, the index of the next free turn (log 2, log 15). -/
  turnCount : Nat
  /-- MODEL: the index of the next free buffer contents (log 10, log 15). -/
  freeCount : Nat
deriving DecidableEq, Repr

/-- The machine has no traps (60_exceptions.md), so there is one fault only. -/
inductive Fault where
  /-- The start write succeeded and PENDING is None, where R94 takes a card from it. Raised by `startOk`.
  Safe: no run reaches it (log 14). -/
  | startWithoutCard
deriving DecidableEq, Repr

/-- Refusals of the model. A command the SPEC refuses is no refusal here: it sets REFUSED in a next state
(R8, log 12). -/
inductive Refusal where
  /-- An instruction that has no meaning yet. Raised by no arm of this model. Safe. -/
  | notModelled (mnemonic : String)
deriving DecidableEq, Repr

/-- The machine right after reset (R116, 10_state.md section 8), with the reference configuration (R14). The
elements whose value R116 leaves free are 0 and RXQ is empty (DESIGN CHOICE, log 8), the UART and the
command port are empty (log 16, log 19), and the OPEN parameters are free (log 5). -/
def State.reset : State :=
  { fsm := .idle, prevActive := false, seedPending := false, lastPollMs := 0#32, closeMs := 0#32
    pending := none
    session := { active := false, driverId := none, plate := none, lastCl := 0#32 }
    lastReading := none, cfg := Config.referenceCfg, crcReg := 0xFFFF#16
    txBuf := Vector.replicate 8 0#8, txValid := false
    rxBuf := Vector.replicate 69 0#8, rxLen := 0#7, res := .ok
    regs := Vector.replicate 32 0#16, regCount := 0#6
    de := false, busy := false, refused := false
    rxq := [], txTrace := [], evLog := [], now := 0#32
    params := { rxCapacity := Config.rxCapacity, rxPollMaxMs := Config.rxPollMaxMs }
    uart := [], port := [], activity := .none, agenda := [], turnCount := 0, freeCount := 0 }

end Sys2Proof.Machine
end

