-- ==== Sys2Proof/Machine/Ops.lean ====
section
/-! DEFINITION. The named operations over the state: the primitives of R7, refusing (R8), raising an error
(R104, the MLB's only exception), the holds and the end of a command (R9, R22), the other agents' steps
(R9), and reset (R116). -/

namespace Sys2Proof.Machine

/-- `refuse(reason)` (R8, R106): sets REFUSED and writes nothing else; the reason is not recorded. -/
def refuse (_reason : RefuseReason) (s : State) : State := { s with refused := true }

/-- `Emit(e)` (R27, R102): appends to EVLOG. -/
def emit (e : Event) (s : State) : State := { s with evLog := s.evLog ++ [e] }

/-- `RxDiscardAll()` (R7, R20). -/
def discardRx (s : State) : State := { s with rxq := [] }

/-- `DE <- v` (R7, R19). -/
def setDe (v : Bool) (s : State) : State := { s with de := v }

/-- `TxPush` of each byte in order: the UART takes it and TXTRACE records it with DE (R21). -/
def pushBytes (bytes : List Byte) (s : State) : State :=
  { s with txTrace := s.txTrace ++ bytes.map (fun b => (b, s.de)), uart := s.uart ++ bytes }

/-- `TxFlushed()`: every byte handed over has left the UART (R7). -/
def txFlushed (s : State) : Bool := s.uart.isEmpty

/-- `CRCREG <- c` (R15). -/
def setCrc (c : Word) (s : State) : State := { s with crcReg := c }

/-- A built frame goes into TXBUF, whole, and sets TXVALID (R16). -/
def loadTx (frame : Vector Byte 8) (s : State) : State := { s with txBuf := frame, txValid := true }

/-- RXBUF holds `bytes`, and its entries past them are unspecified: free values (R17, log 10). -/
@[irreducible] def rxBufOf (bytes : List Byte) (index : Nat) : Vector Byte 69 :=
  Vector.ofFn fun k => bytes.getD k.val (Config.freeRxByte index k.val)

/-- `RXBUF[0..n-1] <- bytes; RXLEN <- n` (R17, R85, R87, R89). -/
def storeResponse (bytes : List Byte) (s : State) : State :=
  { s with
    rxBuf := rxBufOf bytes s.freeCount
    rxLen := BitVec.ofNat 7 bytes.length
    freeCount := s.freeCount + 1 }

/-- `RES <- r`. -/
def setRes (r : Res) (s : State) : State := { s with res := r }

/-- `raise E` (R104): RES <- E and RXLEN <- 0. Nothing else is saved, and no handler runs. -/
def raise (e : ProtocolError) (s : State) : State := setRes (.error e) (storeResponse [] s)

/-- REGS holds `values`, and its entries past them are unspecified: free values (I6, log 11). -/
@[irreducible] def regsOf (values : List Word) (index : Nat) : Vector Word 32 :=
  Vector.ofFn fun k => values.getD k.val (Config.freeReg index k.val)

/-- `REGS[k] <- values[k]; REGCOUNT <- n` (R18, R89). -/
def storeRegs (values : List Word) (s : State) : State :=
  { s with
    regs := regsOf values s.freeCount
    regCount := BitVec.ofNat 6 values.length
    freeCount := s.freeCount + 1 }

/-- `REGCOUNT <- 0` (R89). -/
def clearRegCount (s : State) : State := { s with regCount := 0#6 }

/-- The control loop is held: the command is in progress, and BUSY is 1 (R9, R22). -/
def hold (a : Activity) (s : State) : State := { s with busy := true, activity := a }

/-- The command ends: BUSY <- 0, and nothing is in progress (R22, R104, R107). -/
def endCommand (s : State) : State := { s with busy := false, activity := .none }

/-! The steps of the other agents. -/

/-- A queue of at most RX_CAPACITY bytes takes what it has room for; a byte that arrives when it is full is
lost (R20). -/
def appendRx (capacity : Option Nat) (queue bytes : List Byte) : List Byte :=
  match capacity with
  | none => queue ++ bytes
  | some n => queue ++ bytes.take (n - queue.length)

/-- The line appends bytes to RXQ (R20, R32). -/
def deliverBytes (bytes : List Byte) (s : State) : State :=
  { s with rxq := appendRx s.params.rxCapacity s.rxq bytes }

/-- The UART finishes sending its `count` oldest bytes (R21). -/
def drainUart (count : Nat) (s : State) : State := { s with uart := s.uart.drop count }

/-- The clock's step (R28). -/
def tickClock (s : State) : State := { s with now := s.now + 1#32 }

/-- The host presents a command, which waits on the port until it is accepted (R22). -/
def presentCommand (c : Command) (s : State) : State := { s with port := s.port ++ [c] }

/-- The oldest waiting command leaves the port: it is accepted (R22). -/
def popPort (s : State) : State := { s with port := s.port.tail }

/-- Reset during a run (R116, R118): every element at its reset value, the free ones from the reset input,
of which RXQ keeps at most RX_CAPACITY bytes. The parameters, the UART's bytes, which are the line's
concern, and the model's own fields stay (log 9). -/
def resetState (r : ResetInput) (s : State) : State :=
  { fsm := .idle, prevActive := false, seedPending := false
    lastPollMs := r.lastPollMs, closeMs := r.closeMs
    pending := none
    session := { active := false, driverId := none, plate := none, lastCl := 0#32 }
    lastReading := none, cfg := r.cfg, crcReg := 0xFFFF#16
    txBuf := r.txBuf, txValid := false
    rxBuf := r.rxBuf, rxLen := 0#7, res := .ok
    regs := r.regs, regCount := 0#6
    de := false, busy := false, refused := false
    rxq := appendRx s.params.rxCapacity [] r.rxq, txTrace := [], evLog := [], now := r.now
    params := s.params, uart := s.uart, port := r.port, activity := .none
    agenda := s.agenda, turnCount := s.turnCount, freeCount := s.freeCount }

end Sys2Proof.Machine
end

