-- ==== Sys2Proof/Machine/CrcUnit.lean ====
section
/-! DEFINITION. The CRC-16 generator's commands (40_crc.md section 3). They are the only writers of CRCREG
(R15). -/

namespace Sys2Proof.Machine

/-- CRC_INIT: `CRCREG <- 0xFFFF` (R67). -/
def execCrcInit (s : State) : Host.Outcome State Fault Refusal := .next (setCrc seed s)

/-- CRC_BYTE d: `CRCREG <- bytestep(CRCREG, D)` (R68). -/
def execCrcByte (d : Byte) (s : State) : Host.Outcome State Fault Refusal :=
  .next (setCrc (bytestep s.crcReg d) s)

end Sys2Proof.Machine
end

