-- ==== Sys2Proof/Machine/Flags.lean ====
section
/-! DEFINITION. The flags: the bits of the device's status register, the falling edge, and the codes of the
states, results and events (R11, R12, R98, R102, R103). The MLB has no arithmetic condition codes. -/

namespace Sys2Proof.Machine

/-- bit0 ready (R12, R31). -/
def readyBit (status : Word) : Bool := status.getLsbD 0

/-- bit1 session-active, the only status bit that drives a transition (R12, R31). -/
def sessionActiveBit (status : Word) : Bool := status.getLsbD 1

/-- bit2 error (R12, R31); it drives nothing. -/
def errorBit (status : Word) : Bool := status.getLsbD 2

/-- bit3 flow-active (R12, R31); it drives nothing. -/
def flowActiveBit (status : Word) : Bool := status.getLsbD 3

/-- The falling edge of the session-active bit: the previous successful poll had it and the current one has
not (R97, R98). -/
def fallingEdge (previous current : Bool) : Bool := previous && !current

/-- The code of FSM_STATE (R11). -/
def FsmState.code : FsmState → BitVec 2
  | .idle => 0#2
  | .sessionStarting => 1#2
  | .sessionActive => 2#2
  | .sessionClosing => 3#2

/-- The RES code of an error (R103). -/
def ProtocolError.code : ProtocolError → BitVec 3
  | .timeout => 1#3
  | .crcMismatch => 2#3
  | .addressOrFunctionMismatch => 3#3
  | .echoMismatch => 4#3
  | .unexpectedByteCount => 5#3

/-- The code of RES (R18, R103); 6 and 7 are never written. -/
def Res.code : Res → BitVec 3
  | .ok => 0#3
  | .error e => e.code

/-- The code of an EVLOG entry (R102). -/
def Event.code : Event → Nat
  | .started _ => 1
  | .updated _ => 2
  | .closed _ => 3
  | .rejected _ => 4
  | .startFailed _ => 5
  | .idle => 6
  | .pollFailed _ => 7

end Sys2Proof.Machine
end

