-- ==== Sys2Proof/Machine/Codec.lean ====
section
/-! DEFINITION. The frame codec (41_frame_codec.md): building request frames, taking responses apart, and the
two build commands. -/

namespace Sys2Proof.Machine

/-- A request frame: the six body bytes and their CRC, low byte first (R46, R47, R49). -/
def buildFrame (a fn : Byte) (x y : Word) : Vector Byte 8 :=
  let c := crc16 (requestBody a fn x y)
  #v[a, fn, hiByte x, loByte x, hiByte y, loByte y, loByte c, hiByte c]

/-- `buildWriteFrame(a, r, v)` (R69). -/
def buildWriteFrame (a : Byte) (r v : Word) : Vector Byte 8 := buildFrame a 0x06#8 r v

/-- `buildReadFrame(a, s, n)` (R70), total on every count. -/
def buildReadFrame (a : Byte) (start count : Word) : Vector Byte 8 := buildFrame a 0x03#8 start count

/-- `decodeWrite(f)` (R74): address, function code, register and value of a write frame. -/
def decodeWrite (f : List Byte) : Byte × Byte × Word × Word :=
  (f.getD 0 0, f.getD 1 0, u16 (f.getD 2 0) (f.getD 3 0), u16 (f.getD 4 0) (f.getD 5 0))

/-- `decodeRegs(d, n)` of 2n data bytes: big-endian values in request order (R34, R72). -/
def decodeRegs : List Byte → List Word
  | hi :: lo :: rest => u16 hi lo :: decodeRegs rest
  | _ => []

/-- `decodeReading(reg[0..5])` (R73). -/
def decodeReading (reg : Vector Word 32) : MeterReading :=
  { status := reg[0], sessionCl := u32 reg[1] reg[2], totalCl := u32 reg[3] reg[4], flowClPerMin := reg[5] }

/-- The whole liters of a volume or flow in centiliters: `cl div 100` (R101). -/
def litersWhole (cl : Nat) : Nat := cl / 100

/-- The hundredths of a liter: `cl mod 100` (R101). -/
def litersHundredths (cl : Nat) : Nat := cl % 100

/-- BUILD_WRITE a, r, v (R75). -/
def execBuildWrite (a : Byte) (r v : Word) (s : State) : Host.Outcome State Fault Refusal :=
  .next (loadTx (buildWriteFrame a r v) s)

/-- BUILD_READ a, s, c (R76). -/
def execBuildRead (a : Byte) (start count : Word) (s : State) : Host.Outcome State Fault Refusal :=
  .next (loadTx (buildReadFrame a start count) s)

end Sys2Proof.Machine
end

