-- ==== Sys2Proof/Machine/Session.lean ====
section
/-! DEFINITION. The session FSM's transitions (44_session_fsm.md): what follows the start write and a poll, the
falling edge, and the end of the summary window. -/

namespace Sys2Proof.Machine

/-- `startOk()` with the card that PENDING held (R94). -/
def startOkWith (id : CardId) (plate : Plate) (s : State) : State :=
  emit (.started plate)
    { s with
      pending := none
      session := { active := true, driverId := some id, plate := some plate, lastCl := 0#32 }
      lastReading := none
      prevActive := false
      seedPending := true
      fsm := .sessionActive }

/-- `startOk()` (R94), then the end of the command. Without a card there is no session to start (log 14). -/
def startOk (s : State) : Host.Outcome State Fault Refusal :=
  match s.pending with
  | some (id, plate) => .next (endCommand (startOkWith id plate s))
  | none => .fault .startWithoutCard

/-- `startFail(e)` (R95). -/
def startFail (e : ProtocolError) (s : State) : State :=
  emit (.startFailed e) { s with pending := none, fsm := .idle }

/-- `close()` (R98). -/
def closeSession (s : State) : State :=
  emit (.closed s.session.lastCl)
    { s with session := { s.session with active := false }, closeMs := s.now, fsm := .sessionClosing }

/-- A new reading replaces the last one, and the session volume follows it (R23, R45, R97). -/
def takeReading (m : MeterReading) (s : State) : State :=
  emit (.updated m)
    { s with lastReading := some m, session := { s.session with lastCl := m.sessionCl } }

/-- PREV_ACTIVE after a successful poll (R13, R97). -/
def setPrevActive (v : Bool) (s : State) : State := { s with prevActive := v }

/-- The rest of `poll()` after RHR ended Ok, with the reading its registers decode to (R97). -/
def pollOkWith (m : MeterReading) (s : State) : State :=
  let cur := sessionActiveBit m.status
  let taken := takeReading m s
  setPrevActive cur (if fallingEdge s.prevActive cur then closeSession taken else taken)

/-- The rest of `poll()` after RHR ended Ok (R97). -/
def pollOk (s : State) : State := pollOkWith (decodeReading s.regs) s

/-- The rest of `poll()` after RHR failed (R97). -/
def pollFail (e : ProtocolError) (s : State) : State := emit (.pollFailed e) s

/-- A poll attempt begins: the seed poll is no longer due, and the interval starts (R97). -/
def beginPoll (s : State) : State := { s with seedPending := false, lastPollMs := s.now }

/-- A poll is due (R96): the seed poll, or the interval is over. -/
def pollDue (s : State) : Bool := s.seedPending || timerDue s.now s.lastPollMs s.cfg.pollIntervalMs

/-- The summary window is over (R96). -/
def summaryOver (s : State) : Bool := timerDue s.now s.closeMs s.cfg.summaryDisplayMs

/-- The return to Idle: the session's identity is cleared (R96). -/
def returnToIdle (s : State) : State :=
  emit .idle
    { s with session := { active := false, driverId := none, plate := none, lastCl := 0#32 }, fsm := .idle }

/-- A card is accepted: SessionStarting, with the card in PENDING (R93). -/
def beginStart (id : CardId) (plate : Plate) (s : State) : State :=
  { s with fsm := .sessionStarting, pending := some (id, plate) }

end Sys2Proof.Machine
end

