-- ==== Sys2Proof/Machine/Transport.lean ====
section
/-! DEFINITION. Transport (42_transport.md): the send sequence up to its await and after it, the checks of a
receive, and SEND and RECEIVE. -/

namespace Sys2Proof.Machine

/-- Steps 1 to 3 of `send(f)` and the await of step 4 (R77): discard RXQ, DE <- 1, push every byte, and
hold. No hold stands between these steps, so they are one step of the control loop (log 3). -/
def startSend (x : Sender) (frame : List Byte) (s : State) : State :=
  hold (.sending x) (pushBytes frame (setDe true (discardRx s)))

/-- What one check of a receive finds (R80). -/
inductive RxCheck where
  /-- All the bytes have come. -/
  | bytes (got : List Byte)
  /-- The window is over. -/
  | timeout
  /-- Neither: the receive yields, with its window. -/
  | wait (w : Window)
deriving DecidableEq, Repr

/-- The window of `receive(n, T)` at its start: `t0 <- Now()`, `acc <- []` (R80). -/
def openWindow (need : Nat) (limit : Ms) (s : State) : Window :=
  { need := need, limit := limit, t0 := s.now, got := [], checkedAt := s.now }

/-- The bytes a check has taken in all: those taken before, and of RXQ the oldest, up to `need` (R80, R83). -/
def bytesTaken (w : Window) (s : State) : List Byte := w.got ++ s.rxq.take (w.need - w.got.length)

/-- RXQ after a check has taken its bytes (R80, R83). -/
def takeRx (w : Window) (s : State) : State := { s with rxq := s.rxq.drop (w.need - w.got.length) }

/-- The verdict of one check, in the order of R80: completion, then time. -/
def checkWindow (w : Window) (s : State) : RxCheck :=
  let got := bytesTaken w s
  if got.length = w.need then .bytes got
  else if timerDue s.now w.t0 w.limit then .timeout
  else .wait { w with got := got, checkedAt := s.now }

/-- The clock may not advance before the MLB checks again: RX_POLL_MAX_MS have passed since the last check of
an open receive (R81). -/
def checkOverdue (s : State) : Bool :=
  match s.activity with
  | .receiving _ w => decide (s.params.rxPollMaxMs ≤ (elapsed s.now w.checkedAt).toNat)
  | .sending _ => false
  | .none => false

/-- SEND (R84). -/
def execSend (s : State) : Host.Outcome State Fault Refusal :=
  if s.txValid then .next (startSend .command s.txBuf.toList s)
  else .next (refuse .sendWithoutFrame s)

/-- RECEIVE goes on from a check (R85). `s` is the state after the check took its bytes. -/
def receiveCommand (r : RxCheck) (s : State) : State :=
  match r with
  | .bytes got => endCommand (setRes .ok (storeResponse got s))
  | .timeout => endCommand (raise .timeout s)
  | .wait w => hold (.receiving .command w) s

/-- RECEIVE n, t (R85), with its first check. A length outside 1..69 is refused (R57). -/
def execReceive (n : Byte) (t : Ms) (s : State) : Host.Outcome State Fault Refusal :=
  if 1 ≤ n.toNat ∧ n.toNat ≤ 69 then
    .next (receiveCommand (checkWindow (openWindow n.toNat t s) s) (takeRx (openWindow n.toNat t s) s))
  else .next (refuse .illegalCommand s)

end Sys2Proof.Machine
end

