-- ==== Sys2Proof/Machine/Sequencer.lean ====
section
/-! DEFINITION. The register sequencer (43_register_client.md): WSR and RHR from their start to each of their
ends, and what the session FSM does with the result (R94, R95, R97). -/

namespace Sys2Proof.Machine

/-- WSR ends with status `r` (R104): the host's command ends, or the FSM's start goes on (R93). -/
def endWsr (by_ : Caller) (r : Res) (s : State) : Host.Outcome State Fault Refusal :=
  match by_, r with
  | .host, _ => .next (endCommand s)
  | .fsm, .ok => startOk s
  | .fsm, .error e => .next (endCommand (startFail e s))

/-- RHR ends with status `r` (R104): the host's command ends, or the FSM's poll goes on (R97). -/
def endRhr (by_ : Caller) (r : Res) (s : State) : State :=
  match by_, r with
  | .host, _ => endCommand s
  | .fsm, .ok => endCommand (pollOk s)
  | .fsm, .error e => endCommand (pollFail e s)

/-- WSR's checks on its eight response bytes, in the order of R87 and R105. -/
def wsrVerdict (a : Byte) (r v : Word) (x : List Byte) : Res :=
  let f := (buildWriteFrame a r v).toList
  if !crcOk x then .error .crcMismatch
  else if x.getD 0 0 ≠ a ∨ x.getD 1 0 ≠ 0x06#8 then .error .addressOrFunctionMismatch
  else if (x.drop 2).take 4 ≠ (f.drop 2).take 4 then .error .echoMismatch
  else .ok

/-- RHR's checks on its three header bytes, in the order of R89 and R105. -/
def headerVerdict (a : Byte) (count : Word) (h : List Byte) : Res :=
  if h.getD 0 0 ≠ a ∨ h.getD 1 0 ≠ 0x03#8 then .error .addressOrFunctionMismatch
  else if (h.getD 2 0).toNat ≠ 2 * count.toNat then .error .unexpectedByteCount
  else .ok

/-- RES, and the response where it is Ok, else nothing of it (R104). -/
def recordStatus (r : Res) (s : State) : State :=
  match r with
  | .ok => setRes .ok s
  | .error e => raise e s

/-- WSR goes on from a check of its receive (R87). `s` is the state after the check took its bytes. -/
def wsrContinue (a : Byte) (r v : Word) (by_ : Caller) (c : RxCheck) (s : State) :
    Host.Outcome State Fault Refusal :=
  match c with
  | .bytes x =>
    endWsr by_ (wsrVerdict a r v x) (recordStatus (wsrVerdict a r v x) (storeResponse x s))
  | .timeout => endWsr by_ (.error .timeout) (raise .timeout s)
  | .wait w => .next (hold (.receiving (.wsr a r v by_) w) s)

/-- The data bytes of a whole read response (R50). -/
def responseData (x : List Byte) : List Byte := (x.drop 3).take (x.length - 5)

/-- RHR goes on from a check of its body receive (R89). -/
def bodyContinue (count : Word) (header : List Byte) (by_ : Caller) (c : RxCheck) (s : State) : State :=
  match c with
  | .bytes b =>
    let x := header ++ b
    let stored := storeResponse x s
    if crcOk x then endRhr by_ .ok (setRes .ok (storeRegs (decodeRegs (responseData x)) stored))
    else endRhr by_ (.error .crcMismatch) (raise .crcMismatch stored)
  | .timeout => endRhr by_ (.error .timeout) (raise .timeout s)
  | .wait w => hold (.receiving (.body count header by_) w) s

/-- The body receive's window opens, `byteCount + 2` bytes with a readTimeoutMs of its own, and makes its
first check (R89). -/
def bodyStart (count : Word) (header : List Byte) (by_ : Caller) (s : State) : State :=
  let w := openWindow ((header.getD 2 0).toNat + 2) s.cfg.readTimeoutMs s
  bodyContinue count header by_ (checkWindow w s) (takeRx w s)

/-- RHR goes on from a check of its header receive (R89). -/
def headerContinue (a : Byte) (count : Word) (by_ : Caller) (c : RxCheck) (s : State) : State :=
  match c with
  | .bytes h =>
    match headerVerdict a count h with
    | .ok => bodyStart count h by_ s
    | .error e => endRhr by_ (.error e) (raise e s)
  | .timeout => endRhr by_ (.error .timeout) (raise .timeout s)
  | .wait w => hold (.receiving (.header a count by_) w) s

/-- WSR from its start to the await of its send (R87). -/
def startWsr (a : Byte) (r v : Word) (by_ : Caller) (s : State) : State :=
  startSend (.wsr a r v by_) (buildWriteFrame a r v).toList (loadTx (buildWriteFrame a r v) s)

/-- RHR, its count in range, from its start to the await of its send (R89). -/
def startRhr (a : Byte) (start count : Word) (by_ : Caller) (s : State) : State :=
  startSend (.rhr a count by_) (buildReadFrame a start count).toList
    (clearRegCount (loadTx (buildReadFrame a start count) s))

/-- A count that R88 admits. -/
def countInRange (count : Word) : Bool := decide (1 ≤ count.toNat) && decide (count.toNat ≤ 32)

/-- WSR a, r, v (R87). -/
def execWsr (a : Byte) (r v : Word) (s : State) : Host.Outcome State Fault Refusal :=
  .next (startWsr a r v .host s)

/-- RHR a, s, c (R88, R89). -/
def execRhr (a : Byte) (start count : Word) (s : State) : Host.Outcome State Fault Refusal :=
  if countInRange count then .next (startRhr a start count .host s)
  else .next (refuse .readCountOutOfRange s)

/-- After the await of a send: DE <- 0 (step 5 of R77) is done, and the exchange goes on with its receive,
whose first check is made at once (R80). -/
def sendContinue (x : Sender) (s : State) : Host.Outcome State Fault Refusal :=
  match x with
  | .command => .next (endCommand s)
  | .wsr a r v by_ =>
    let w := openWindow 8 s.cfg.writeTimeoutMs s
    wsrContinue a r v by_ (checkWindow w s) (takeRx w s)
  | .rhr a count by_ =>
    let w := openWindow 3 s.cfg.readTimeoutMs s
    .next (headerContinue a count by_ (checkWindow w s) (takeRx w s))

/-- The check after a yield (R80, R81), for each receive. -/
def receiveContinue (x : Receiver) (w : Window) (s : State) : Host.Outcome State Fault Refusal :=
  match x with
  | .command => .next (receiveCommand (checkWindow w s) (takeRx w s))
  | .wsr a r v by_ => wsrContinue a r v by_ (checkWindow w s) (takeRx w s)
  | .header a count by_ => .next (headerContinue a count by_ (checkWindow w s) (takeRx w s))
  | .body count header by_ => .next (bodyContinue count header by_ (checkWindow w s) (takeRx w s))

end Sys2Proof.Machine
end

