-- ==== Sys2Proof/Machine/SessionEvents.lean ====
section
/-! DEFINITION. The session FSM's two commands, EV_CARD and EV_TICK (44_session_fsm.md). -/

namespace Sys2Proof.Machine

/-- EV_CARD id, lookup (R93, R100): outside Idle it is ignored; without a match it is rejected; else the
start write of R93 begins, `WSR(CFG.slaveAddress, 0, 1)`. -/
def execEvCard (id : CardId) (lookup : Option Plate) (s : State) : Host.Outcome State Fault Refusal :=
  if s.fsm = .idle then
    match lookup with
    | none => .next (emit (.rejected id) s)
    | some plate => .next (startWsr s.cfg.slaveAddress 0#16 1#16 .fsm (beginStart id plate s))
  else .next s

/-- EV_TICK (R96): in SessionActive a due poll begins, `RHR(CFG.slaveAddress, 1, 6)` (R97); in SessionClosing
the summary window may end. -/
def execEvTick (s : State) : Host.Outcome State Fault Refusal :=
  match s.fsm with
  | .idle => .next s
  | .sessionStarting => .next s
  | .sessionActive =>
    if pollDue s then .next (startRhr s.cfg.slaveAddress 1#16 6#16 .fsm (beginPoll s)) else .next s
  | .sessionClosing => if summaryOver s then .next (returnToIdle s) else .next s

end Sys2Proof.Machine
end

