-- ==== Sys2Proof/Machine/Wire.lean ====
section
/-! DEFINITION. The wire frames as instructions (30_encoding.md Part A, log 13): a request is a frame the MLB
sends (R53), so its meaning is `send(f)`; a response is a frame the line delivers (R32), so its meaning is
that its bytes arrive at RXQ. -/

namespace Sys2Proof.Machine

/-- WREQ (R47, R77). -/
def execWreq (a : Byte) (r v crc : Word) (s : State) : Host.Outcome State Fault Refusal :=
  .next (startSend .command (requestBody a 0x06#8 r v ++ crcField crc) s)

/-- RREQ (R49, R77). -/
def execRreq (a : Byte) (start count crc : Word) (s : State) : Host.Outcome State Fault Refusal :=
  .next (startSend .command (requestBody a 0x03#8 start count ++ crcField crc) s)

/-- WRSP (R20, R32, R48). -/
def execWrsp (a : Byte) (r v crc : Word) (s : State) : Host.Outcome State Fault Refusal :=
  .next (deliverBytes (requestBody a 0x06#8 r v ++ crcField crc) s)

/-- RRSP (R20, R32, R50). -/
def execRrsp (a : Byte) (data : List Byte) (crc : Word) (s : State) : Host.Outcome State Fault Refusal :=
  .next (deliverBytes (responseBody a data ++ crcField crc) s)

end Sys2Proof.Machine
end

