-- ==== Sys2Proof/Machine/Dispatch.lean ====
section
/-! DEFINITION. The meaning of every instruction, one arm per constructor. -/

namespace Sys2Proof.Machine

open Sys2Proof

def exec (i : Instr) (s : State) : Host.Outcome State Fault Refusal :=
  match i with
  | .crcInit => Sys2Proof.Machine.execCrcInit s
  | .crcByte d => Sys2Proof.Machine.execCrcByte d s
  | .buildWrite a r v => Sys2Proof.Machine.execBuildWrite a r v s
  | .buildRead a start count => Sys2Proof.Machine.execBuildRead a start count s
  | .send => Sys2Proof.Machine.execSend s
  | .receive n t => Sys2Proof.Machine.execReceive n t s
  | .wsr a r v => Sys2Proof.Machine.execWsr a r v s
  | .rhr a start count => Sys2Proof.Machine.execRhr a start count s
  | .evCard id lookup => Sys2Proof.Machine.execEvCard id lookup s
  | .evTick => Sys2Proof.Machine.execEvTick s
  | .wreq a r v crc => Sys2Proof.Machine.execWreq a r v crc s
  | .wrsp a r v crc => Sys2Proof.Machine.execWrsp a r v crc s
  | .rreq a start count crc => Sys2Proof.Machine.execRreq a start count crc s
  | .rrsp a data crc => Sys2Proof.Machine.execRrsp a data crc s

end Sys2Proof.Machine
end

