-- ==== Sys2Proof/Machine/Turns.lean ====
section
/-! DEFINITION. Whose turn it is, what each agent does in its turn (R9), and how a command word or a frame
comes to be the next thing the machine runs. -/

namespace Sys2Proof.Machine

open Sys2Proof

/-- One byte drains; the rest of the UART waits for later turns. -/
def FairTurn.turn : FairTurn → Turn
  | .clock => .clock
  | .drain => .drain 1
  | .mlb => .mlb

/-- Whose turn fairness gives after this one's. -/
def FairTurn.succ : FairTurn → FairTurn
  | .clock => .drain
  | .drain => .mlb
  | .mlb => .clock

/-- At turn `n` of the free schedule: how many free turns are still to come before the next fair one, and whose
that is (log 4). -/
def freePhase : Nat → Nat × FairTurn
  | 0 => (Config.freeGap 0, .clock)
  | n + 1 =>
    match freePhase n with
    | (0, f) => (Config.freeGap (n + 1), f.succ)
    | (k + 1, f) => (k, f)

/-- The free schedule: any interleaving in which the clock, the drain and the control loop have turns again and
again, after gaps of any length (R9, C8, log 2, log 4). -/
def freeTurn (n : Nat) : Turn :=
  match freePhase n with
  | (0, f) => f.turn
  | (_ + 1, _) => Config.freeChoice n

/-- The next turn: the first that State lists, else the free schedule's (R9, log 2). -/
def nextTurn (s : State) : Turn := s.agenda.headD (freeTurn s.turnCount)

/-- The turn is taken. -/
def takeTurn (s : State) : State := { s with agenda := s.agenda.tail, turnCount := s.turnCount + 1 }

/-- A command is accepted (R22): an illegal word is refused (R57), any other is run. -/
def accept (c : Command) (s : State) : Host.Outcome State Fault Refusal :=
  match decodeCommand c with
  | .ok i => exec i s
  | .error _ => .next (refuse .illegalCommand s)

/-- The control loop's turn (R9): held in an await it goes on when the UART has drained, held in a yield it
checks again, and not held it accepts the oldest waiting command while BUSY is 0 (R22). -/
def mlbTurn (s : State) : Host.Outcome State Fault Refusal :=
  match s.activity with
  | .sending x => if txFlushed s then sendContinue x (setDe false s) else .next s
  | .receiving x w => receiveContinue x w s
  | .none =>
    match s.port with
    | [] => .next s
    | c :: _ => if s.busy then .next s else accept c (popPort s)

/-- The line delivers bytes: a response frame has its meaning, and any other bytes arrive as they are (R32). -/
def lineTurn (bytes : List Byte) (s : State) : Host.Outcome State Fault Refusal :=
  match decodeInbound bytes with
  | .ok i => exec i s
  | .error _ => .next (deliverBytes bytes s)

/-- What the turn's agent does. -/
def agentTurn (t : Turn) (s : State) : Host.Outcome State Fault Refusal :=
  match t with
  | .mlb => mlbTurn s
  | .clock => .next (tickClock s)
  | .drain count => .next (drainUart count s)
  | .deliver bytes => lineTurn bytes s
  | .present c => .next (presentCommand c s)
  | .reset r => .next (resetState r s)

/-- One step: the next agent takes its turn. Where that is the clock and the check of an open receive is
overdue, the control loop is scheduled first, and the clock's turn stays the next one (R9, R81, log 6). -/
def runTurn (s : State) : Host.Outcome State Fault Refusal :=
  if nextTurn s = .clock ∧ checkOverdue s = true then mlbTurn s
  else agentTurn (nextTurn s) (takeTurn s)

/-- The coming turns are `turns`. -/
def withAgenda (turns : List Turn) (s : State) : State := { s with agenda := turns }

/-- What the encoded instruction needs so that the very next step runs it: a command is the first on the port
and the control loop, not held, is scheduled; a frame to send is in TXBUF with SEND on the port (R84); a
frame to deliver is the line's next turn (log 1, log 13). -/
def placeEncoded (e : Encoded) (s : State) : State :=
  match e with
  | .command c =>
    { s with port := c :: s.port, agenda := .mlb :: s.agenda, busy := false, activity := .none }
  | .outbound bytes =>
    { s with
      txBuf := Vector.ofFn fun k => bytes.getD k.val 0#8
      txValid := true
      port := plainCommand (wordOp 0x20#8) :: s.port
      agenda := .mlb :: s.agenda
      busy := false
      activity := .none }
  | .inbound bytes => { s with agenda := .deliver bytes :: s.agenda }

end Sys2Proof.Machine
end

