-- ==== Sys2Proof/Machine/Step.lean ====
section
/-! DEFINITION. One step of the machine, and how a word of the opcode table is placed where the next step
takes it. -/

namespace Sys2Proof.Machine

open Sys2Proof

/-- One step: one turn of one agent (R9). -/
def step (s : State) : Host.Outcome State Fault Refusal := runTurn s

/-- The state with a table word placed so that the very next step runs it (log 1). -/
def State.withFetchWord (s : State) (nbits w : Nat) : State := placeEncoded (encodedOfTableWord nbits w) s

end Sys2Proof.Machine
end

