-- ==== Sys2Proof/Machine/Assembly.lean ====
section
/-! DEFINITION. The spec's own writing of commands: the pseudo-commands (R59) and the assembler's text form
(R58). -/

namespace Sys2Proof.Machine

open Sys2Proof

/-- `CRC16 b0, ..., bn-1` (R59). -/
def pseudoCrc16 (bytes : List Byte) : List Instr := .crcInit :: bytes.map .crcByte

/-- `START a` (R59). -/
def pseudoStart (a : Byte) : Instr := .wsr a 0#16 1#16

/-- `POLL a` (R59). -/
def pseudoPoll (a : Byte) : Instr := .rhr a 1#16 6#16

/-- Instructions run one after another, as long as each gives a next state. -/
def execAll : List Instr → State → Host.Outcome State Fault Refusal
  | [], s => .next s
  | i :: rest, s =>
    match exec i s with
    | .next t => execAll rest t
    | .fault e => .fault e
    | .refused e => .refused e

/-- A number of the text form. -/
def numberText (n : Nat) : String := " " ++ toString n

/-- The text form of a command (R58), its numbers in decimal; tokens are written by their number. A wire frame
has none. -/
def asmText : Instr → Option String
  | .crcInit => some "CRC_INIT"
  | .crcByte d => some ("CRC_BYTE" ++ numberText d.toNat)
  | .buildWrite a r v =>
    some ("BUILD_WRITE" ++ numberText a.toNat ++ "," ++ numberText r.toNat ++ "," ++ numberText v.toNat)
  | .buildRead a start count =>
    some ("BUILD_READ" ++ numberText a.toNat ++ "," ++ numberText start.toNat ++ "," ++ numberText count.toNat)
  | .send => some "SEND"
  | .receive n t => some ("RECEIVE" ++ numberText n.toNat ++ "," ++ numberText t.toNat)
  | .wsr a r v =>
    some ("WSR" ++ numberText a.toNat ++ "," ++ numberText r.toNat ++ "," ++ numberText v.toNat)
  | .rhr a start count =>
    some ("RHR" ++ numberText a.toNat ++ "," ++ numberText start.toNat ++ "," ++ numberText count.toNat)
  | .evCard id none => some ("EV_CARD" ++ numberText id.token ++ ", NONE")
  | .evCard id (some plate) => some ("EV_CARD" ++ numberText id.token ++ "," ++ numberText plate.token)
  | .evTick => some "EV_TICK"
  | .wreq _ _ _ _ => none
  | .wrsp _ _ _ _ => none
  | .rreq _ _ _ _ => none
  | .rrsp _ _ _ => none

end Sys2Proof.Machine
end

