-- ==== Sys2Proof/Safety.lean ====
section
/-! DEFINITION. What a safe state is: the invariants that hold at reset and that every step keeps, in the terms
the claims use. -/

namespace Sys2Proof.Safety

open Sys2Proof Sys2Proof.Machine

/-- A queue of `n` bytes fits in RX_CAPACITY (R20). -/
def fits (capacity : Option Nat) (n : Nat) : Prop := ∀ c, capacity = some c → n ≤ c

/-- The session record of Idle (R24, R96). -/
def emptySession : Session := { active := false, driverId := none, plate := none, lastCl := 0#32 }

/-- The start write of the FSM is in progress (R93). -/
def startInProgress : Activity → Bool
  | .sending (.wsr _ _ _ .fsm) => true
  | .receiving (.wsr _ _ _ .fsm) _ => true
  | _ => false

/-- A poll of the FSM is in progress (R97). -/
def pollInProgress : Activity → Bool
  | .sending (.rhr _ _ .fsm) => true
  | .receiving (.header _ _ .fsm) _ => true
  | .receiving (.body _ _ .fsm) _ => true
  | _ => false

/-- A send is in progress (R79). -/
def sendInProgress : Activity → Bool
  | .sending _ => true
  | _ => false

/-- An open window still lacks bytes, and asks for no more than RXBUF holds (R80). -/
def WindowOk (w : Window) : Prop := w.got.length < w.need ∧ w.need ≤ 69

/-- The exchange in progress has the operands its rule gives it (R87, R89, R93, R97). -/
def ActivityOk (cfg : Cfg) : Activity → Prop
  | .none => True
  | .sending .command => True
  | .sending (.wsr a r v by_) => by_ = .fsm → a = cfg.slaveAddress ∧ r = 0#16 ∧ v = 1#16
  | .sending (.rhr a count by_) =>
    countInRange count = true ∧ (by_ = .fsm → a = cfg.slaveAddress ∧ count = 6#16)
  | .receiving .command w => WindowOk w
  | .receiving (.wsr a r v by_) w =>
    WindowOk w ∧ w.need = 8 ∧ w.limit = cfg.writeTimeoutMs ∧
      (by_ = .fsm → a = cfg.slaveAddress ∧ r = 0#16 ∧ v = 1#16)
  | .receiving (.header a count by_) w =>
    WindowOk w ∧ w.need = 3 ∧ w.limit = cfg.readTimeoutMs ∧ countInRange count = true ∧
      (by_ = .fsm → a = cfg.slaveAddress ∧ count = 6#16)
  | .receiving (.body count header by_) w =>
    WindowOk w ∧ header.length = 3 ∧ (header.getD 2 0).toNat = 2 * count.toNat ∧
      w.need = 2 * count.toNat + 2 ∧ w.limit = cfg.readTimeoutMs ∧ countInRange count = true ∧
      (by_ = .fsm → count = 6#16)

/-- The session volume is that of the last reading of the session, 0 before the first (R94, R97). -/
def volumeOf : Option MeterReading → Centiliters
  | none => 0#32
  | some m => m.sessionCl

/-- The state is consistent: what the rules say holds between the state elements at every moment. -/
structure StateOk (s : State) : Prop where
  /-- BUSY is 1 exactly while a command is in progress (R22). -/
  busy_iff : s.busy = true ↔ s.activity ≠ .none
  /-- DE is 1 exactly while a send is in progress (R79). -/
  de_eq : s.de = sendInProgress s.activity
  /-- RXQ holds at most RX_CAPACITY bytes (R20). -/
  rxq_fits : fits s.params.rxCapacity s.rxq.length
  /-- RXLEN is 0..69 (R17). -/
  rxLen_le : s.rxLen.toNat ≤ 69
  /-- REGCOUNT is 0..32 (R18). -/
  regCount_le : s.regCount.toNat ≤ 32
  /-- Every byte was pushed with DE = 1 (R77). -/
  trace_transmit : ∀ e ∈ s.txTrace, e.2 = true
  /-- Nothing is sent before a frame is built (R84). -/
  trace_valid : s.txValid = false → s.txTrace = []
  /-- The exchange in progress has its rule's operands. -/
  activity_ok : ActivityOk s.cfg s.activity
  /-- SessionStarting lasts exactly while the start write runs (R92). -/
  starting_iff : s.fsm = .sessionStarting ↔ startInProgress s.activity = true
  /-- PENDING holds a card exactly in SessionStarting (R25). -/
  pending_iff : s.pending.isSome = true ↔ s.fsm = .sessionStarting
  /-- A poll runs in SessionActive only, and the seed poll is no longer due then (R96, R97). -/
  poll_active : pollInProgress s.activity = true → s.fsm = .sessionActive ∧ s.seedPending = false
  /-- S_ACTIVE is 1 exactly in SessionActive (R24). -/
  active_iff : s.session.active = true ↔ s.fsm = .sessionActive
  /-- Before a session the record is empty (R95). -/
  idle_empty : s.fsm = .idle ∨ s.fsm = .sessionStarting → s.session = emptySession
  /-- Outside SessionActive no edge is remembered and no seed poll is due (R95, R97, R98). -/
  inactive_clear : s.fsm ≠ .sessionActive → s.prevActive = false ∧ s.seedPending = false
  /-- S_LAST_CL is the session volume of the last reading (R97, R98). -/
  volume_eq : s.fsm = .sessionActive ∨ s.fsm = .sessionClosing →
    s.session.lastCl = volumeOf s.lastReading
  /-- The edge remembered is that of the last reading (R13). -/
  edge_eq : s.fsm = .sessionActive →
    s.prevActive = (s.lastReading.map fun m => sessionActiveBit m.status).getD false

/-- The conditions R4 puts on the OPEN parameters, with the timeouts of the configuration. -/
structure ParamsOk (s : State) : Prop where
  capacity_pos : ∀ c, s.params.rxCapacity = some c → 1 ≤ c
  poll_pos : 1 ≤ s.params.rxPollMaxMs
  read_bound : s.cfg.readTimeoutMs.toNat + s.params.rxPollMaxMs < 2 ^ 32
  write_bound : s.cfg.writeTimeoutMs.toNat + s.params.rxPollMaxMs < 2 ^ 32

/-- An open receive was inside its time at the last check, and at most RX_POLL_MAX_MS have passed since
(R80, R81). -/
def TimingOk (s : State) : Prop :=
  ∀ x w, s.activity = .receiving x w →
    elapsed w.checkedAt w.t0 < w.limit ∧ (elapsed s.now w.checkedAt).toNat ≤ s.params.rxPollMaxMs

/-- `k` steps, stopping at the first fault or refusal. -/
def steps : Nat → State → Host.Outcome State Fault Refusal
  | 0, s => .next s
  | k + 1, s =>
    match step s with
    | .next t => steps k t
    | .fault e => .fault e
    | .refused e => .refused e

/-- RXQ, once empty, has room for `n` bytes (R20). -/
def roomFor (n : Nat) (s : State) : Prop := ∀ c, s.params.rxCapacity = some c → n ≤ c

/-- The sequence with bit `k` of byte `i` flipped (R66). -/
def flipBit (i k : Nat) (f : List Byte) : List Byte := f.set i (f.getD i 0#8 ^^^ (1#8 <<< k))

/-- What the session FSM owns is the same (44_session_fsm.md, opening). -/
def SessionSame (s t : State) : Prop :=
  t.fsm = s.fsm ∧ t.prevActive = s.prevActive ∧ t.seedPending = s.seedPending ∧
    t.lastPollMs = s.lastPollMs ∧ t.closeMs = s.closeMs ∧ t.pending = s.pending ∧
    t.session = s.session ∧ t.lastReading = s.lastReading ∧ t.evLog = s.evLog

/-- CFG, the OPEN parameters, CRCREG, REFUSED, NOW and the waiting commands are the same. -/
def OtherSame (s t : State) : Prop :=
  t.cfg = s.cfg ∧ t.params = s.params ∧ t.crcReg = s.crcReg ∧ t.refused = s.refused ∧
    t.now = s.now ∧ t.port = s.port

/-- The frame last built and what has been pushed are the same (R16, R21). -/
def SentSame (s t : State) : Prop :=
  t.txBuf = s.txBuf ∧ t.txValid = s.txValid ∧ t.txTrace = s.txTrace

/-- The result registers of a read are the same (R18). -/
def RegsSame (s t : State) : Prop := t.regs = s.regs ∧ t.regCount = s.regCount

/-- The command is over: BUSY is 0 and no exchange is in progress (R22). -/
def Ended (u : State) : Prop := u.busy = false ∧ u.activity = .none

/-- RXBUF and RXLEN hold exactly the response `x` (R17). -/
def HoldsResponse (x : List Byte) (u : State) : Prop :=
  u.rxLen = BitVec.ofNat 7 x.length ∧ ∀ k (h : k < 69), k < x.length → u.rxBuf[k] = x.getD k 0#8

/-- REGCOUNT is `count`, and REGS holds that many registers of `data`, in request order (R18, R89). -/
def HoldsRegisters (count : Nat) (data : List Byte) (u : State) : Prop :=
  u.regCount = BitVec.ofNat 6 count ∧
    ∀ k (h : k < 32), k < count → u.regs[k] = u16 (data.getD (2 * k) 0#8) (data.getD (2 * k + 1) 0#8)

/-- A host's exchange has gone from `s` to its end `u` with an error: the status, and nothing of the response
(R104). -/
def HostFails (e : ProtocolError) (s u : State) : Prop :=
  u.res = .error e ∧ u.rxLen = 0#7 ∧ Ended u ∧ RegsSame s u ∧ SentSame s u ∧ SessionSame s u ∧ OtherSame s u

/-- What WSR answers to the eight bytes `x`: the first check of R87 that fails, or Ok. -/
def wsrAnswer (a : Byte) (r v : Word) (x : List Byte) : Res :=
  if crcOk x = false then .error .crcMismatch
  else if x.getD 0 0#8 ≠ a ∨ x.getD 1 0#8 ≠ 0x06#8 then .error .addressOrFunctionMismatch
  else if (x.drop 2).take 4 ≠ ((buildWriteFrame a r v).toList.drop 2).take 4 then .error .echoMismatch
  else .ok

/-- A host's WSR has gone from `s` to its end `u` with the response `x` (R87). -/
def WsrEnds (a : Byte) (r v : Word) (x : List Byte) (s u : State) : Prop :=
  u.res = wsrAnswer a r v x ∧ (u.res = .ok → HoldsResponse x u) ∧ (u.res ≠ .ok → u.rxLen = 0#7) ∧ Ended u ∧
    RegsSame s u ∧ SentSame s u ∧ SessionSame s u ∧ OtherSame s u

/-- A read response with the CRC of its bytes (R50). -/
def responseFrame (a : Byte) (data : List Byte) : List Byte :=
  responseBody a data ++ crcField (crc16 (responseBody a data))

/-- A host's RHR has gone from `s` to its end `u` with the `count` registers of `data`, in request order (R89). -/
def RhrEnds (a : Byte) (count : Word) (data : List Byte) (s u : State) : Prop :=
  u.res = .ok ∧ HoldsRegisters count.toNat data u ∧ HoldsResponse (responseFrame a data) u ∧ Ended u ∧
    SentSame s u ∧ SessionSame s u ∧ OtherSame s u

/-- RHR's error for a header that its checks do not pass: address and function before byteCount (R89). -/
def headerError (a h0 h1 : Byte) : ProtocolError :=
  if h0 ≠ a ∨ h1 ≠ 0x03#8 then .addressOrFunctionMismatch else .unexpectedByteCount

/-- A header that RHR's checks do not pass (R89). -/
def BadHeader (a : Byte) (count : Word) (h0 h1 h2 : Byte) : Prop :=
  h0 ≠ a ∨ h1 ≠ 0x03#8 ∨ h2.toNat ≠ 2 * count.toNat

/-- The FSM's start write has gone from `s` to its end `u`, Ok, with the response `x` (R87, R94). -/
def SessionStarts (x : List Byte) (id : CardId) (plate : Plate) (s u : State) : Prop :=
  u.fsm = .sessionActive ∧ u.pending = none ∧
    u.session = { active := true, driverId := some id, plate := some plate, lastCl := 0#32 } ∧
    u.lastReading = none ∧ u.prevActive = false ∧ u.seedPending = true ∧
    u.evLog = s.evLog ++ [.started plate] ∧ u.lastPollMs = s.lastPollMs ∧ u.closeMs = s.closeMs ∧
    u.res = .ok ∧ HoldsResponse x u ∧ Ended u ∧ RegsSame s u ∧ SentSame s u ∧ OtherSame s u

/-- The FSM's start write has gone from `s` to its end `u` with an error (R95). -/
def StartFails (e : ProtocolError) (s u : State) : Prop :=
  u.fsm = .idle ∧ u.pending = none ∧ u.session = s.session ∧ u.prevActive = s.prevActive ∧
    u.seedPending = s.seedPending ∧ u.lastReading = s.lastReading ∧
    u.evLog = s.evLog ++ [.startFailed e] ∧ u.lastPollMs = s.lastPollMs ∧ u.closeMs = s.closeMs ∧
    u.res = .error e ∧ u.rxLen = 0#7 ∧ Ended u ∧ RegsSame s u ∧ SentSame s u ∧ OtherSame s u

/-- The FSM's poll has gone from `s` to its end `u` with the six registers of `data` (R89) and the reading `m`, whose
session-active bit is `active` (R97); on the falling edge the session is closed (R98). -/
def PollSucceeds (a : Byte) (data : List Byte) (m : MeterReading) (active : Bool) (s u : State) : Prop :=
  u.lastReading = some m ∧ u.session.lastCl = m.sessionCl ∧ u.prevActive = active ∧
    u.seedPending = s.seedPending ∧ u.lastPollMs = s.lastPollMs ∧ u.pending = s.pending ∧
    u.session.driverId = s.session.driverId ∧ u.session.plate = s.session.plate ∧
    u.res = .ok ∧ HoldsRegisters 6 data u ∧ HoldsResponse (responseFrame a data) u ∧ Ended u ∧
    SentSame s u ∧ OtherSame s u ∧
    (if s.prevActive = true ∧ active = false then
      u.fsm = .sessionClosing ∧ u.session.active = false ∧ u.closeMs = s.now ∧
        u.evLog = s.evLog ++ [.updated m, .closed m.sessionCl]
    else
      u.fsm = s.fsm ∧ u.session.active = s.session.active ∧ u.closeMs = s.closeMs ∧
        u.evLog = s.evLog ++ [.updated m])

/-- The FSM's poll has gone from `s` to its end `u` with an error: the session stays as it was (R97). -/
def PollFails (e : ProtocolError) (s u : State) : Prop :=
  u.evLog = s.evLog ++ [.pollFailed e] ∧ u.fsm = s.fsm ∧ u.prevActive = s.prevActive ∧
    u.lastReading = s.lastReading ∧ u.session = s.session ∧ u.pending = s.pending ∧
    u.lastPollMs = s.lastPollMs ∧ u.seedPending = s.seedPending ∧ u.closeMs = s.closeMs ∧
    u.res = .error e ∧ u.rxLen = 0#7 ∧ Ended u ∧ RegsSame s u ∧ SentSame s u ∧ OtherSame s u

/-- The receive's window is over with too few bytes there (R80). -/
def WindowOver (w : Window) (s : State) : Prop :=
  w.got.length + s.rxq.length < w.need ∧ w.limit.toNat ≤ (s.now - w.t0).toNat

/-- A window of `need` bytes has taken no more than that, and what it has taken, followed by what waits in RXQ, is
`bytes` (R80, R83). -/
def Arrived (need : Nat) (bytes : List Byte) (w : Window) (s : State) : Prop :=
  w.need = need ∧ w.got.length ≤ need ∧ w.got ++ s.rxq = bytes

/-- The UART has drained, and the control loop, held in a send, has its turn (R77 step 5). -/
def SendOver (x : Sender) (s : State) : Prop := s.activity = .sending x ∧ s.uart = [] ∧ nextTurn s = .mlb

/-- At the end of the send `x`, `bytes` wait in RXQ for the first check of its receive (R77 step 5, R80). -/
def SendOverWith (x : Sender) (bytes : List Byte) (s : State) : Prop := SendOver x s ∧ s.rxq = bytes

/-- In none of the `k` states from `s` on is it the line's turn to deliver, or a reset's: a silent line (R9). -/
def silentFor (k : Nat) (s : State) : Prop :=
  ∀ j u, j < k → steps j s = .next u → (∀ b, nextTurn u ≠ .deliver b) ∧ ∀ r, nextTurn u ≠ .reset r

/-- The moves of the session FSM and the events of each: the rows of the table of R92, and R93 to R98. -/
inductive TableMove (s t : State) : Prop where
  /-- Nothing happens to the session, and nothing is emitted (R92 last row, R100). -/
  | stay (hf : t.fsm = s.fsm) (hl : t.evLog = s.evLog)
  /-- Idle, no match: rejected (R93). -/
  | reject (id : CardId) (hs : s.fsm = .idle) (hf : t.fsm = .idle)
      (hl : t.evLog = s.evLog ++ [.rejected id])
  /-- Idle, match: the start write begins (R93). -/
  | start (hs : s.fsm = .idle) (hf : t.fsm = .sessionStarting) (hl : t.evLog = s.evLog)
  /-- The start write ends Ok (R94). -/
  | started (plate : Plate) (hs : s.fsm = .sessionStarting) (hf : t.fsm = .sessionActive)
      (hl : t.evLog = s.evLog ++ [.started plate])
  /-- The start write ends with an error (R95). -/
  | startFailed (e : ProtocolError) (hs : s.fsm = .sessionStarting) (hf : t.fsm = .idle)
      (hl : t.evLog = s.evLog ++ [.startFailed e])
  /-- A poll fails (R97). -/
  | pollFailed (e : ProtocolError) (hs : s.fsm = .sessionActive) (hf : t.fsm = .sessionActive)
      (hl : t.evLog = s.evLog ++ [.pollFailed e])
  /-- A poll is Ok and there is no falling edge (R97). -/
  | updated (m : MeterReading) (hs : s.fsm = .sessionActive) (hf : t.fsm = .sessionActive)
      (he : ¬(s.prevActive = true ∧ m.status.getLsbD 1 = false))
      (hl : t.evLog = s.evLog ++ [.updated m])
  /-- A poll is Ok and the session-active bit falls (R98). -/
  | closed (m : MeterReading) (hs : s.fsm = .sessionActive) (hf : t.fsm = .sessionClosing)
      (he : s.prevActive = true ∧ m.status.getLsbD 1 = false)
      (hl : t.evLog = s.evLog ++ [.updated m, .closed m.sessionCl])
  /-- The summary window is over (R96). -/
  | returned (hs : s.fsm = .sessionClosing) (hf : t.fsm = .idle) (hl : t.evLog = s.evLog ++ [.idle])

/-- The next turn resets the machine (R118). -/
def resetTurn (s : State) : Prop := ∃ r, nextTurn s = .reset r

/-- The next step accepts a command that decodes to `i` (R22). -/
def accepts (i : Instr) (s : State) : Prop :=
  s.activity = .none ∧ s.busy = false ∧ nextTurn s = .mlb ∧
    ∃ c rest, s.port = c :: rest ∧ decodeCommand c = .ok i

/-- The readings of successive successful polls of one session, one after another (R97). -/
def pollSequence (readings : List MeterReading) (s : State) : State :=
  readings.foldl (fun u m => pollOkWith m u) s

/-- A command word that R57 refuses: an OP not in the table of R54, a reserved bit set, or a RECEIVE whose
length is outside 1..69. -/
def IllegalWord (w : BitVec 64) : Prop :=
  let op := w.toNat % 256
  (op ∉ [0x01, 0x02, 0x10, 0x11, 0x20, 0x21, 0x30, 0x31, 0x40, 0x41]) ∨
    (op ∈ [0x01, 0x20, 0x40, 0x41] ∧ 2 ^ 8 ≤ w.toNat) ∨
    (op = 0x02 ∧ 2 ^ 16 ≤ w.toNat) ∨
    (op ∈ [0x10, 0x11, 0x21, 0x30, 0x31] ∧ 2 ^ 48 ≤ w.toNat) ∨
    (op = 0x21 ∧ (w.toNat / 256 % 256 = 0 ∨ 69 < w.toNat / 256 % 256))

/-- A legal command that its own rule refuses (R84, R88, R106), and a RECEIVE term whose length is out of range
(R57). -/
def RefusedByRule : Instr → State → Prop
  | .send, s => s.txValid = false
  | .receive n _, _ => n.toNat = 0 ∨ 69 < n.toNat
  | .rhr _ _ count, _ => count.toNat = 0 ∨ 32 < count.toNat
  | _, _ => False

/-- A run is safe that ends with REFUSED = 0: a claim about a run takes it as a premise (R29). -/
def runUnrefused (s : State) : Prop := s.refused = false

end Sys2Proof.Safety
end

