-- ==== Sys2Proof/WellFormed.lean ====
section
/-! DEFINITION. Which instructions are well formed: the operand ranges of R57 and the CRC field that
every frame carries (R46). -/

namespace Sys2Proof

open Sys2Proof.Machine

/-- RECEIVE takes 1 to 69 bytes (R57); a frame's CRC field is the CRC of the bytes before it (R46), and a
read response's byteCount is one byte (R50). Every other operand may have any value (R53, R56, R70); the
count of an RHR is checked by the command's own rule (R57, R88). -/
def Instr.wellFormed : Instr → Bool
  | .crcInit => true
  | .crcByte _ => true
  | .buildWrite _ _ _ => true
  | .buildRead _ _ _ => true
  | .send => true
  | .receive n _ => decide (1 ≤ n.toNat) && decide (n.toNat ≤ 69)
  | .wsr _ _ _ => true
  | .rhr _ _ _ => true
  | .evCard _ _ => true
  | .evTick => true
  | .wreq a r v crc => crc == crc16 (requestBody a 0x06#8 r v)
  | .wrsp a r v crc => crc == crc16 (requestBody a 0x06#8 r v)
  | .rreq a start count crc => crc == crc16 (requestBody a 0x03#8 start count)
  | .rrsp a data crc => decide (data.length ≤ 255) && crc == crc16 (responseBody a data)

end Sys2Proof
end

