-- ==== Sys2Proof/Certificates/Slice0/Obligations.lean ====
section
/-! DEFINITION. The statements for the provers. Each docstring names the rule of spec/ it formalises, or says
which choice of the model it states. -/

open Sys2Proof Sys2Proof.Machine Sys2Proof.Safety

/-! CRC-16 generator (40_crc.md). -/

/-- R67: CRC_INIT sets CRCREG to the seed and writes nothing else; its word; idempotence. -/
def Obligations.CrcInitSetsSeed : Prop :=
  decodeCommand (plainCommand 0x0000000000000001#64) = .ok .crcInit ∧
    ∀ s : State, exec .crcInit s = .next { s with crcReg := 0xFFFF#16 } ∧
      ∀ t, exec .crcInit s = .next t → exec .crcInit t = .next t

/-- R68: CRC_BYTE folds one byte into CRCREG and writes nothing else; its encoding; after reset it goes on from
0xFFFF; the rule's example. -/
def Obligations.CrcByteFoldsOneByte : Prop :=
  (∀ d : Byte, decodeCommand (plainCommand ((d.setWidth 64 <<< 8) ||| 0x02#64)) = .ok (.crcByte d)) ∧
    (∀ (d : Byte) (s : State),
      exec (.crcByte d) s = .next { s with crcReg := bytestep s.crcReg d }) ∧
    State.reset.crcReg = 0xFFFF#16 ∧ bytestep 0xFFFF#16 0x01#8 = 0x807E#16

/-- 40_crc.md section 3, which marks it as derived from the byte step: where the accumulator's low byte is the byte,
CRC_BYTE shifts it right by eight and no POLY term enters. -/
def Obligations.CrcByteOfItsLowByteShifts : Prop :=
  ∀ (d : Byte) (s : State), s.crcReg.extractLsb' 0 8 = d →
    exec (.crcByte d) s = .next { s with crcReg := s.crcReg >>> 8 }

/-- R61: the bit step as the rule writes it. -/
def Obligations.BitStepIsTheRule : Prop :=
  ∀ c : Word, bitstep c = if c.getLsbD 0 = true then (c >>> 1) ^^^ 0xA001#16 else c >>> 1

/-- 40_crc.md section 1: the byte step and the fold as written there. That the byte enters by an XOR into the low
byte, and that there is no final XOR, the spec marks as its own, from general knowledge
(93_implementation_defined.md G1 and G2, log 22). -/
def Obligations.ByteStepAndFoldAreAsWritten : Prop :=
  (∀ (c : Word) (b : Byte), bytestep c b =
    bitstep (bitstep (bitstep (bitstep (bitstep (bitstep (bitstep (bitstep (c ^^^ b.setWidth 16))))))))) ∧
    crc16 [] = 0xFFFF#16 ∧ ∀ (B : List Byte) (b : Byte), crc16 (B ++ [b]) = bytestep (crc16 B) b

/-- 30_encoding.md Part C, which marks it as derived: after the pseudo-command `CRC16 b0, ..., bn-1` the accumulator
is CRC16 of the bytes, and nothing else has changed. -/
def Obligations.CrcPseudoCommandComputesCrc16 : Prop :=
  ∀ (B : List Byte) (s : State), execAll (pseudoCrc16 B) s = .next { s with crcReg := crc16 B }

/-- 40_crc.md section 2, which marks it as derived: the residue of a sequence with its own CRC is 0, and for a
sequence of at least two bytes the check of the CRC field and the check of the residue are the same. -/
def Obligations.CrcResidueIsZero : Prop :=
  (∀ B : List Byte,
    crc16 (B ++ [(crc16 B).extractLsb' 0 8, (crc16 B).extractLsb' 8 8]) = 0#16) ∧
    ∀ f : List Byte, 2 ≤ f.length → (crcOk f = true ↔ crc16 f = 0#16)

/-- R66: flipping any single bit of a sequence with its CRC makes the check fail. -/
def Obligations.SingleBitFlipFailsCheck : Prop :=
  ∀ (B : List Byte) (i k : Nat), i < B.length + 2 → k < 8 →
    crcOk (flipBit i k (B ++ [(crc16 B).extractLsb' 0 8, (crc16 B).extractLsb' 8 8])) = false

/-! Frame codec (41_frame_codec.md). -/

/-- R69, R70, with R34 and R35: the bytes of the two request frames. -/
def Obligations.RequestFramesAreTheirBytes : Prop :=
  ∀ (a : Byte) (x y : Word),
    (buildWriteFrame a x y).toList =
      (let p := [a, 0x06#8, x.extractLsb' 8 8, x.extractLsb' 0 8, y.extractLsb' 8 8, y.extractLsb' 0 8]
       p ++ [(crc16 p).extractLsb' 0 8, (crc16 p).extractLsb' 8 8]) ∧
    (buildReadFrame a x y).toList =
      (let p := [a, 0x03#8, x.extractLsb' 8 8, x.extractLsb' 0 8, y.extractLsb' 8 8, y.extractLsb' 0 8]
       p ++ [(crc16 p).extractLsb' 0 8, (crc16 p).extractLsb' 8 8])

/-- 41_frame_codec.md section 1, which marks it as derived: taking a built write frame apart gives its operands back,
and both built frames pass the check. -/
def Obligations.FrameRoundTrip : Prop :=
  (∀ (a : Byte) (r v : Word), decodeWrite (buildWriteFrame a r v).toList = (a, 0x06#8, r, v)) ∧
    (∀ (a : Byte) (r v : Word), crcOk (buildWriteFrame a r v).toList = true) ∧
    ∀ (a : Byte) (start count : Word), crcOk (buildReadFrame a start count).toList = true

/-- 41_frame_codec.md section 2: the build commands write TXBUF and TXVALID and nothing else. -/
def Obligations.BuildCommandsLoadTxbuf : Prop :=
  ∀ (a : Byte) (x y : Word) (s : State),
    exec (.buildWrite a x y) s = .next { s with txBuf := buildWriteFrame a x y, txValid := true } ∧
    exec (.buildRead a x y) s = .next { s with txBuf := buildReadFrame a x y, txValid := true }

/-- 41_frame_codec.md section 1: register k of 2n data bytes is bytes 2k and 2k+1, high byte first, and there are n of
them. -/
def Obligations.RegistersDecodeBigEndianInOrder : Prop :=
  ∀ (n : Nat) (d : List Byte), d.length = 2 * n →
    (decodeRegs d).length = n ∧
      ∀ k, k < n → (decodeRegs d)[k]? = some (u16 (d.getD (2 * k) 0#8) (d.getD (2 * k + 1) 0#8))

/-- R51: the twelve data bytes of a poll response, stored as registers, decode to the reading the rule gives. -/
def Obligations.PollResponseDecodesToReading : Prop :=
  ∀ (d0 d1 d2 d3 d4 d5 d6 d7 d8 d9 d10 d11 : Byte) (s : State),
    decodeReading (storeRegs (decodeRegs [d0, d1, d2, d3, d4, d5, d6, d7, d8, d9, d10, d11]) s).regs =
      { status := u16 d0 d1, sessionCl := u32 (u16 d2 d3) (u16 d4 d5), totalCl := u32 (u16 d6 d7) (u16 d8 d9),
        flowClPerMin := u16 d10 d11 }

/-- R101: the whole liters and the hundredths of a volume of `cl` centiliters are exactly `cl`. -/
def Obligations.LitersAreExact : Prop :=
  ∀ cl : Nat, litersWhole cl * 100 + litersHundredths cl = cl ∧ litersHundredths cl < 100

/-! Encodings (30_encoding.md). -/

/-- 30_encoding.md Parts A and B: decoding the encoding of a well-formed instruction gives it back, with every operand
at every value. That a frame's direction tells WREQ from WRSP is the model's choice (log 13). -/
def Obligations.DecodeOfEncodeIsTheInstruction : Prop :=
  ∀ i : Instr, i.wellFormed = true → decode (encode i) = .ok i

/-- 30_encoding.md Parts A and B: each word and each frame has one meaning, so that what decodes to an instruction is
that instruction's encoding (a command's side operands apart, which R55 gives to EV_CARD only). That a frame's
direction tells WREQ from WRSP is the model's choice (log 13). -/
def Obligations.EncodeOfDecodeIsTheWord : Prop :=
  (∀ (c : Command) (i : Instr), decodeCommand c = .ok i →
    ∃ c', encode i = .command c' ∧ c'.word = c.word) ∧
    (∀ (b : List Byte) (i : Instr), decodeOutbound b = .ok i → encode i = .outbound b) ∧
    ∀ (b : List Byte) (i : Instr), decodeInbound b = .ok i → encode i = .inbound b

/-- 95_test_vectors.md sections 2.2, 2.4 and 2.5: command words, the start write and the poll response R that the
spec writes out decode to their instructions. That the first frame is read as one the MLB sends and the second as
one the line delivers, and that the table numbers a frame's byte 0 leftmost, is the model's choice (log 13). -/
def Obligations.SampleWordsDecode : Prop :=
  decodeTableWord 64 0x0000000000000102 = some (.crcByte 0x01#8) ∧
    decodeTableWord 64 0x0000ABCD12340110 = some (.buildWrite 1#8 0x1234#16 0xABCD#16) ∧
    decodeTableWord 64 0x0000000000640821 = some (.receive 8#8 100#32) ∧
    decodeTableWord 64 0x0000000300011130 = some (.wsr 0x11#8 1#16 3#16) ∧
    decodeTableWord 64 0x0000002000000131 = some (.rhr 1#8 0#16 32#16) ∧
    decodeTableWord 64 0x0000000000000041 = some .evTick ∧
    decode (.outbound [0x01#8, 0x06#8, 0x00#8, 0x00#8, 0x00#8, 0x01#8, 0x48#8, 0x0A#8]) =
      .ok (.wreq 1#8 0#16 1#16 0x0A48#16) ∧
    decode (.inbound [0x01#8, 0x03#8, 0x0C#8, 0x00#8, 0x0B#8, 0x00#8, 0x00#8, 0x04#8, 0xD2#8, 0x00#8, 0x01#8,
        0x86#8, 0xA0#8, 0x01#8, 0xF4#8, 0x51#8, 0x17#8]) =
      .ok (.rrsp 1#8 [0x00#8, 0x0B#8, 0x00#8, 0x00#8, 0x04#8, 0xD2#8, 0x00#8, 0x01#8, 0x86#8, 0xA0#8, 0x01#8,
        0xF4#8] 0x1751#16)

/-- R57: exactly the words the rule lists do not decode. -/
def Obligations.ExactlyIllegalWordsDoNotDecode : Prop :=
  ∀ c : Command, IllegalWord c.word ↔ ∃ e, decodeCommand c = .error e

/-- R57 and 60_exceptions.md R106: accepting an illegal word sets REFUSED and nothing else. -/
def Obligations.IllegalWordSetsRefusedOnly : Prop :=
  ∀ (c : Command) (s : State), IllegalWord c.word → accept c s = .next { s with refused := true }

/-- 60_exceptions.md R106: a command is refused for exactly the rule's reasons, and a refused command sets REFUSED and
nothing else. For a RECEIVE built as a term and not decoded, the refusal is the model's choice (log 21). -/
def Obligations.RefusedForExactlyTheRulesReasons : Prop :=
  ∀ (i : Instr) (s : State),
    (RefusedByRule i s → exec i s = .next { s with refused := true }) ∧
      ∀ t, ¬RefusedByRule i s → exec i s = .next t → t.refused = s.refused

/-! Transport (42_transport.md). -/

/-- 42_transport.md section 1 and R84: SEND with a valid frame discards RXQ, raises DE, pushes the eight bytes in
order with DE = 1, and holds; when the UART has drained it lowers DE and ends, and nothing else has changed. That
the control loop runs from hold to hold in one step is the model's choice (log 3). -/
def Obligations.SendTransmitsFrameAndCompletes : Prop :=
  ∀ s : State, s.txValid = true →
    ∃ t, exec .send s = .next t ∧
      t = { s with
            rxq := []
            de := true
            txTrace := s.txTrace ++ s.txBuf.toList.map (fun b => (b, true))
            uart := s.uart ++ s.txBuf.toList
            busy := true
            activity := .sending .command } ∧
      steps 2 (withAgenda [.drain (s.uart.length + 8), .mlb] t) =
        .next { t with
                de := false
                busy := false
                activity := .none
                uart := []
                agenda := []
                turnCount := s.turnCount + 2 }

/-- R77 step 4, R78: while the UART has not drained, the control loop stays held with DE as it is; and, the drain
being fair (R9, 90_conflicts.md C8), every send ends, with DE = 0. That the control loop, too, has its turn again and
again is the model's inference (log 4), and that it runs from hold to hold in one step its choice (log 3). -/
def Obligations.SendHoldsUntilDrained : Prop :=
  (∀ (s : State) (x : Sender), s.activity = .sending x → s.uart ≠ [] → nextTurn s = .mlb →
    step s = .next (takeTurn s)) ∧
    ∀ s : State, StateOk s → sendInProgress s.activity = true →
      ∃ k t, steps k s = .next t ∧ sendInProgress t.activity = false ∧ t.de = false

/-- R85, R80: RECEIVE with enough bytes waiting takes the oldest n of them at once and ends Ok; so does a check after
a yield that finds the bytes it still lacks. RXBUF past them is free (log 10). That the control loop runs from hold
to hold in one step is the model's choice (log 3). -/
def Obligations.ReceiveCompletesWithWaitingBytes : Prop :=
  (∀ (n : Byte) (t : Ms) (s : State), 1 ≤ n.toNat → n.toNat ≤ 69 → n.toNat ≤ s.rxq.length →
    ∃ buf : Vector Byte 69, (∀ k (h : k < 69), k < n.toNat → buf[k] = s.rxq.getD k 0#8) ∧
      exec (.receive n t) s =
        .next { s with
                rxq := s.rxq.drop n.toNat
                rxBuf := buf
                rxLen := BitVec.ofNat 7 n.toNat
                res := .ok
                busy := false
                activity := .none
                freeCount := s.freeCount + 1 }) ∧
    ∀ (w : Window) (x rest : List Byte) (s : State), Arrived x.length (x ++ rest) w s → x.length ≤ 69 →
      ∃ buf : Vector Byte 69, (∀ k (h : k < 69), k < x.length → buf[k] = x.getD k 0#8) ∧
        receiveContinue .command w s =
          .next { s with
                  rxq := rest
                  rxBuf := buf
                  rxLen := BitVec.ofNat 7 x.length
                  res := .ok
                  busy := false
                  activity := .none
                  freeCount := s.freeCount + 1 }

/-- R80, R82, R85: RECEIVE with too few bytes waiting takes and discards them and ends in Timeout when T = 0, and
holds with an open window otherwise. That the control loop runs from hold to hold in one step is the model's
choice (log 3). -/
def Obligations.ReceiveWithTooFewBytes : Prop :=
  ∀ (n : Byte) (t : Ms) (s : State), n.toNat ≤ 69 → s.rxq.length < n.toNat →
    (t = 0#32 → ∃ buf : Vector Byte 69,
      exec (.receive n t) s =
        .next { s with
                rxq := []
                rxBuf := buf
                rxLen := 0#7
                res := .error .timeout
                busy := false
                activity := .none
                freeCount := s.freeCount + 1 }) ∧
      (t ≠ 0#32 →
        exec (.receive n t) s =
          .next { s with
                  rxq := []
                  busy := true
                  activity := .receiving .command
                    { need := n.toNat, limit := t, t0 := s.now, got := s.rxq, checkedAt := s.now } })

/-- R80: one check of an open receive takes what has come, then tests completion, then time. -/
def Obligations.ReceiveCheckOrder : Prop :=
  ∀ (w : Window) (s : State), w.got.length < w.need →
    let taken := w.got ++ s.rxq.take (w.need - w.got.length)
    (w.need ≤ w.got.length + s.rxq.length → checkWindow w s = .bytes taken ∧ taken.length = w.need) ∧
      (w.got.length + s.rxq.length < w.need → w.limit.toNat ≤ (s.now - w.t0).toNat →
        checkWindow w s = .timeout) ∧
      (w.got.length + s.rxq.length < w.need → (s.now - w.t0).toNat < w.limit.toNat →
        checkWindow w s = .wait { w with got := taken, checkedAt := s.now }) ∧
      (takeRx w s).rxq = s.rxq.drop (w.need - w.got.length)

/-- R80, R81: at the control loop's turn an open receive is checked; a check with too few bytes inside the time takes
them and waits on; and the clock does not pass RX_POLL_MAX_MS since the last check: the control loop checks first,
and the clock's turn stays the next one. How the bound is kept is the model's inference (log 6). -/
def Obligations.OverdueCheckComesBeforeClock : Prop :=
  (∀ (s : State) (x : Receiver) (w : Window), s.activity = .receiving x w → nextTurn s = .mlb →
    step s = receiveContinue x w (takeTurn s)) ∧
    (∀ (s : State) (x : Receiver) (w : Window), w.got.length + s.rxq.length < w.need →
      (s.now - w.t0).toNat < w.limit.toNat →
      receiveContinue x w s =
        .next { s with
                rxq := []
                busy := true
                activity := .receiving x { w with got := w.got ++ s.rxq, checkedAt := s.now } }) ∧
    ∀ (s : State) (x : Receiver) (w : Window), s.activity = .receiving x w →
      s.params.rxPollMaxMs ≤ (s.now - w.checkedAt).toNat → nextTurn s = .clock →
      step s = receiveContinue x w s

/-- R80, R81: an open receive was inside its time at its last check, and at most RX_POLL_MAX_MS have passed since;
every step keeps that. How the bound is kept is the model's inference (log 6). -/
def Obligations.StepKeepsReceiveTiming : Prop :=
  ∀ s t : State, TimingOk s → step s = .next t → TimingOk t

/-- R82: no check of an open receive that began inside its window sees an elapsed time above
T - 1 + RX_POLL_MAX_MS, so none succeeds later; and none times out before T. And, the clock being fair (R9,
90_conflicts.md C8), the command ends: on a silent line with too few bytes there, in Timeout. It rests on the model's
inferences of log 4 and log 6. -/
def Obligations.ReceiveNeverEndsOutsideItsBand : Prop :=
  (∀ (s : State) (x : Receiver) (w : Window), TimingOk s → s.activity = .receiving x w →
    w.limit.toNat + s.params.rxPollMaxMs < 2 ^ 32 →
    (s.now - w.t0).toNat ≤ w.limit.toNat - 1 + s.params.rxPollMaxMs ∧
      (checkWindow w s = .timeout → w.limit.toNat ≤ (s.now - w.t0).toNat)) ∧
    ∀ (s : State) (x : Receiver) (w : Window), StateOk s → TimingOk s → ParamsOk s →
      s.activity = .receiving x w → w.limit.toNat + s.params.rxPollMaxMs < 2 ^ 32 →
      ∃ k t, steps k s = .next t ∧ t.activity = .none ∧
        (w.got.length + s.rxq.length < w.need → silentFor k s → t.res = .error .timeout ∧ t.rxLen = 0#7)

/-! Register sequencer (43_register_client.md). -/

/-- 43_register_client.md section 1: WSR builds its request in TXBUF, sends it and holds; with the UART drained and
eight response bytes there it ends, with the first failing check's error or Ok, in the rule's order; REGS, REGCOUNT,
the session and the rest are as before. With too few bytes there at the end of the send, its window opens: t0 is NOW
then and the limit CFG.writeTimeoutMs (with a limit of 0 it ends in Timeout); and wherever the send ends with the
eight bytes there, or a check after a yield finds them, it ends in the same way, and what follows them stays in RXQ.
That the control loop runs from hold to hold in one step is the model's choice (log 3). -/
def Obligations.WsrSendsRequestAndJudgesResponse : Prop :=
  (∀ (a : Byte) (r v : Word) (x : List Byte) (s : State), x.length = 8 → roomFor 8 s →
    let f := (buildWriteFrame a r v).toList
    ∃ t, exec (.wsr a r v) s = .next t ∧
      t = { s with
            txBuf := buildWriteFrame a r v
            txValid := true
            rxq := []
            de := true
            txTrace := s.txTrace ++ f.map (fun b => (b, true))
            uart := s.uart ++ f
            busy := true
            activity := .sending (.wsr a r v .host) } ∧
      ∃ u, steps 3 (withAgenda [.drain (s.uart.length + 8), .deliver x, .mlb] t) = .next u ∧
        WsrEnds a r v x t u ∧ u.de = false ∧ u.rxq = [] ∧ u.uart = []) ∧
    (∀ (a : Byte) (r v : Word) (by_ : Caller) (s : State), SendOver (.wsr a r v by_) s → s.rxq.length < 8 →
      (s.cfg.writeTimeoutMs ≠ 0#32 →
        step s = .next { takeTurn s with
                         de := false
                         rxq := []
                         busy := true
                         activity := .receiving (.wsr a r v by_)
                           { need := 8, limit := s.cfg.writeTimeoutMs, t0 := s.now, got := s.rxq,
                             checkedAt := s.now } }) ∧
        (s.cfg.writeTimeoutMs = 0#32 → by_ = .host →
          ∃ u, step s = .next u ∧ HostFails .timeout s u ∧ u.de = false ∧ u.rxq = [])) ∧
    (∀ (a : Byte) (r v : Word) (x rest : List Byte) (s : State), x.length = 8 →
      SendOverWith (.wsr a r v .host) (x ++ rest) s →
      ∃ u, step s = .next u ∧ WsrEnds a r v x s u ∧ u.de = false ∧ u.rxq = rest ∧ u.uart = []) ∧
    ∀ (a : Byte) (r v : Word) (x rest : List Byte) (w : Window) (s : State), x.length = 8 →
      Arrived 8 (x ++ rest) w s →
      ∃ u, receiveContinue (.wsr a r v .host) w s = .next u ∧ WsrEnds a r v x s u ∧ u.de = s.de ∧
        u.rxq = rest ∧ u.uart = s.uart

/-- 43_register_client.md, R87 corner case: WSR's checks pass exactly when the eight response bytes are the request.
-/
def Obligations.WsrIsOkExactlyOnEcho : Prop :=
  ∀ (a : Byte) (r v : Word) (x : List Byte), x.length = 8 →
    (wsrVerdict a r v x = .ok ↔ x = (buildWriteFrame a r v).toList)

/-- R88: RHR with a count outside 1..32 is refused before any state is written or any byte is sent. -/
def Obligations.RhrCountOutOfRangeIsRefused : Prop :=
  ∀ (a : Byte) (start count : Word) (s : State), (count.toNat < 1 ∨ 32 < count.toNat) →
    exec (.rhr a start count) s = .next { s with refused := true }

/-- 43_register_client.md section 2: RHR builds its request in TXBUF, clears REGCOUNT, sends and holds; with the UART
drained and a correct response there it ends Ok with the registers decoded in request order; the session and the rest
are as before. With too few bytes there its header window opens at the end of the send, and its body window, with a
t0 of its own, at the check that completes the header (at the end of the send or later), each with the limit
CFG.readTimeoutMs (with a limit of 0 it ends in Timeout); and wherever the send ends with the whole response there, or
a check after a yield, of the header or of the body, finds it, the end is the same, and what follows the response
stays in RXQ. That the control loop runs from hold to hold in one step is the model's choice (log 3). -/
def Obligations.RhrReadsRegisters : Prop :=
  (∀ (a : Byte) (start count : Word) (data : List Byte) (s : State),
    1 ≤ count.toNat → count.toNat ≤ 32 → data.length = 2 * count.toNat →
    roomFor (2 * count.toNat + 5) s →
    let f := (buildReadFrame a start count).toList
    ∃ t, exec (.rhr a start count) s = .next t ∧
      t = { s with
            txBuf := buildReadFrame a start count
            txValid := true
            regCount := 0#6
            rxq := []
            de := true
            txTrace := s.txTrace ++ f.map (fun b => (b, true))
            uart := s.uart ++ f
            busy := true
            activity := .sending (.rhr a count .host) } ∧
      ∃ u, steps 3 (withAgenda [.drain (s.uart.length + 8), .deliver (responseFrame a data), .mlb] t) =
          .next u ∧
        RhrEnds a count data t u ∧ u.de = false ∧ u.rxq = []) ∧
    (∀ (a : Byte) (count : Word) (by_ : Caller) (s : State), SendOver (.rhr a count by_) s → s.rxq.length < 3 →
      (s.cfg.readTimeoutMs ≠ 0#32 →
        step s = .next { takeTurn s with
                         de := false
                         rxq := []
                         busy := true
                         activity := .receiving (.header a count by_)
                           { need := 3, limit := s.cfg.readTimeoutMs, t0 := s.now, got := s.rxq,
                             checkedAt := s.now } }) ∧
        (s.cfg.readTimeoutMs = 0#32 → by_ = .host →
          ∃ u, step s = .next u ∧ HostFails .timeout s u ∧ u.de = false ∧ u.rxq = [])) ∧
    (∀ (a : Byte) (count : Word) (by_ : Caller) (h2 : Byte) (rest : List Byte) (s : State),
      SendOverWith (.rhr a count by_) (a :: 0x03#8 :: h2 :: rest) s → h2.toNat = 2 * count.toNat →
      rest.length < 2 * count.toNat + 2 →
      (s.cfg.readTimeoutMs ≠ 0#32 →
        step s = .next { takeTurn s with
                         de := false
                         rxq := []
                         busy := true
                         activity := .receiving (.body count [a, 0x03#8, h2] by_)
                           { need := 2 * count.toNat + 2, limit := s.cfg.readTimeoutMs, t0 := s.now, got := rest,
                             checkedAt := s.now } }) ∧
        (s.cfg.readTimeoutMs = 0#32 → by_ = .host →
          ∃ u, step s = .next u ∧ HostFails .timeout s u ∧ u.de = false ∧ u.rxq = [])) ∧
    (∀ (a : Byte) (count : Word) (data rest : List Byte) (s : State), count.toNat ≤ 32 →
      data.length = 2 * count.toNat → SendOverWith (.rhr a count .host) (responseFrame a data ++ rest) s →
      ∃ u, step s = .next u ∧ RhrEnds a count data s u ∧ u.de = false ∧ u.rxq = rest) ∧
    (∀ (a : Byte) (count : Word) (by_ : Caller) (h2 : Byte) (rest : List Byte) (w : Window) (s : State),
      Arrived 3 (a :: 0x03#8 :: h2 :: rest) w s → h2.toNat = 2 * count.toNat →
      rest.length < 2 * count.toNat + 2 →
      (s.cfg.readTimeoutMs ≠ 0#32 →
        receiveContinue (.header a count by_) w s =
          .next { s with
                  rxq := []
                  busy := true
                  activity := .receiving (.body count [a, 0x03#8, h2] by_)
                    { need := 2 * count.toNat + 2, limit := s.cfg.readTimeoutMs, t0 := s.now, got := rest,
                      checkedAt := s.now } }) ∧
        (s.cfg.readTimeoutMs = 0#32 → by_ = .host →
          ∃ u, receiveContinue (.header a count by_) w s = .next u ∧ HostFails .timeout s u ∧ u.rxq = [])) ∧
    (∀ (a : Byte) (count : Word) (data rest : List Byte) (w : Window) (s : State), count.toNat ≤ 32 →
      data.length = 2 * count.toNat → Arrived 3 (responseFrame a data ++ rest) w s →
      ∃ u, receiveContinue (.header a count .host) w s = .next u ∧ RhrEnds a count data s u ∧ u.de = s.de ∧
        u.rxq = rest) ∧
    ∀ (a : Byte) (count : Word) (data rest : List Byte) (w : Window) (s : State), count.toNat ≤ 32 →
      data.length = 2 * count.toNat →
      Arrived (2 * count.toNat + 2) ((responseFrame a data).drop 3 ++ rest) w s →
      ∃ u, receiveContinue (.body count ((responseFrame a data).take 3) .host) w s = .next u ∧
        RhrEnds a count data s u ∧ u.de = s.de ∧ u.rxq = rest

/-- 43_register_client.md section 2: a response whose header has another address, function code or byte count ends
the exchange after the header, with that check's error, at the first check or at one after a yield; the rest of it
stays in RXQ. That the control loop runs from hold to hold in one step is the model's choice (log 3). -/
def Obligations.RhrHeaderErrorsEndTheExchange : Prop :=
  (∀ (a : Byte) (start count : Word) (h0 h1 h2 : Byte) (rest : List Byte) (s : State),
    1 ≤ count.toNat → count.toNat ≤ 32 → roomFor (3 + rest.length) s → BadHeader a count h0 h1 h2 →
    ∃ t u, exec (.rhr a start count) s = .next t ∧
      steps 3 (withAgenda [.drain (s.uart.length + 8), .deliver (h0 :: h1 :: h2 :: rest), .mlb] t) =
        .next u ∧
      HostFails (headerError a h0 h1) t u ∧ SessionSame s u ∧ OtherSame s u ∧ u.de = false ∧ u.rxq = rest ∧
      u.regCount = 0#6 ∧ u.regs = s.regs) ∧
    (∀ (a : Byte) (count : Word) (h0 h1 h2 : Byte) (rest : List Byte) (s : State),
      SendOverWith (.rhr a count .host) (h0 :: h1 :: h2 :: rest) s → BadHeader a count h0 h1 h2 →
      ∃ u, step s = .next u ∧ HostFails (headerError a h0 h1) s u ∧ u.de = false ∧ u.rxq = rest) ∧
    ∀ (a : Byte) (count : Word) (h0 h1 h2 : Byte) (rest : List Byte) (w : Window) (s : State),
      Arrived 3 (h0 :: h1 :: h2 :: rest) w s → BadHeader a count h0 h1 h2 →
      ∃ u, receiveContinue (.header a count .host) w s = .next u ∧ HostFails (headerError a h0 h1) s u ∧
        u.de = s.de ∧ u.rxq = rest

/-- 43_register_client.md section 2: a response whose header is right and whose CRC is wrong ends in CrcMismatch, at
the first check or at one after a yield, and no register is written. That the control loop runs from hold to hold in
one step is the model's choice (log 3). -/
def Obligations.RhrCrcMismatch : Prop :=
  (∀ (a : Byte) (start count : Word) (h2 : Byte) (b : List Byte) (s : State),
    1 ≤ count.toNat → count.toNat ≤ 32 → h2.toNat = 2 * count.toNat → b.length = 2 * count.toNat + 2 →
    roomFor (2 * count.toNat + 5) s → crcOk (a :: 0x03#8 :: h2 :: b) = false →
    ∃ t u, exec (.rhr a start count) s = .next t ∧
      steps 3 (withAgenda [.drain (s.uart.length + 8), .deliver (a :: 0x03#8 :: h2 :: b), .mlb] t) =
        .next u ∧
      HostFails .crcMismatch t u ∧ SessionSame s u ∧ OtherSame s u ∧ u.de = false ∧ u.rxq = [] ∧
      u.regCount = 0#6 ∧ u.regs = s.regs) ∧
    (∀ (a : Byte) (count : Word) (h2 : Byte) (b rest : List Byte) (s : State), h2.toNat = 2 * count.toNat →
      b.length = 2 * count.toNat + 2 → crcOk (a :: 0x03#8 :: h2 :: b) = false →
      (SendOverWith (.rhr a count .host) (a :: 0x03#8 :: h2 :: (b ++ rest)) s →
        ∃ u, step s = .next u ∧ HostFails .crcMismatch s u ∧ u.de = false ∧ u.rxq = rest) ∧
        ∀ w : Window, Arrived 3 (a :: 0x03#8 :: h2 :: (b ++ rest)) w s →
          ∃ u, receiveContinue (.header a count .host) w s = .next u ∧ HostFails .crcMismatch s u ∧
            u.de = s.de ∧ u.rxq = rest) ∧
    ∀ (count : Word) (h b rest : List Byte) (w : Window) (s : State), Arrived b.length (b ++ rest) w s →
      crcOk (h ++ b) = false →
      ∃ u, receiveContinue (.body count h .host) w s = .next u ∧ HostFails .crcMismatch s u ∧ u.de = s.de ∧
        u.rxq = rest

/-- R91: an RHR's checks pass only if header and body together are a read response with its address, function code
0x03, byteCount 2c and a correct CRC. -/
def Obligations.RhrAcceptsOnlyItsResponse : Prop :=
  ∀ (a : Byte) (count : Word) (h b : List Byte),
    h.length = 3 → count.toNat ≤ 32 → b.length = 2 * count.toNat + 2 →
    headerVerdict a count h = .ok → crcOk (h ++ b) = true →
    ∃ data : List Byte, data.length = 2 * count.toNat ∧
      h ++ b = responseBody a data ++ crcField (crc16 (responseBody a data))

/-- 43_register_client.md and 42_transport.md R80: a host exchange whose bytes have not come when its window is over
ends in Timeout, and the bytes taken are discarded. That the control loop runs from hold to hold in one step is the
model's choice (log 3). -/
def Obligations.ExchangeTimesOut : Prop :=
  ∀ (s : State) (x : Receiver) (w : Window),
    (x = .command ∨ (∃ a r v, x = .wsr a r v .host) ∨ (∃ a c, x = .header a c .host) ∨
      ∃ c h, x = .body c h .host) →
    s.activity = .receiving x w → nextTurn s = .mlb → WindowOver w s →
    ∃ u, step s = .next u ∧ HostFails .timeout s u ∧ u.rxq = [] ∧ u.de = s.de

/-! Session FSM (44_session_fsm.md). -/

/-- R93: an unauthorized card in Idle is rejected, and nothing else happens. -/
def Obligations.UnauthorizedCardIsRejected : Prop :=
  ∀ (id : CardId) (s : State), s.fsm = .idle →
    exec (.evCard id none) s = .next { s with evLog := s.evLog ++ [.rejected id] }

/-- R100: a card outside Idle is ignored, and a tick in Idle does nothing. -/
def Obligations.EventsIgnoredByState : Prop :=
  (∀ (id : CardId) (lookup : Option Plate) (s : State), s.fsm ≠ .idle →
    exec (.evCard id lookup) s = .next s) ∧
    ∀ s : State, s.fsm = .idle → exec .evTick s = .next s

/-- R93, R94: an authorized card in Idle begins the start write; its echo, there at the end of the send or found by a
check after a yield, makes the session active, with the record of R94. That the control loop runs from hold to hold
in one step is the model's choice (log 3). -/
def Obligations.AuthorizedCardStartsSession : Prop :=
  (∀ (id : CardId) (plate : Plate) (s : State), s.fsm = .idle → roomFor 8 s →
    let f := buildWriteFrame s.cfg.slaveAddress 0#16 1#16
    ∃ t, exec (.evCard id (some plate)) s = .next t ∧
      t = { s with
            fsm := .sessionStarting
            pending := some (id, plate)
            txBuf := f
            txValid := true
            rxq := []
            de := true
            txTrace := s.txTrace ++ f.toList.map (fun b => (b, true))
            uart := s.uart ++ f.toList
            busy := true
            activity := .sending (.wsr s.cfg.slaveAddress 0#16 1#16 .fsm) } ∧
      ∃ u, steps 3 (withAgenda [.drain (s.uart.length + 8), .deliver f.toList, .mlb] t) = .next u ∧
        SessionStarts f.toList id plate t u ∧ u.de = false ∧ u.rxq = []) ∧
    (∀ (id : CardId) (plate : Plate) (a : Byte) (r v : Word) (rest : List Byte) (s : State),
      s.pending = some (id, plate) → SendOverWith (.wsr a r v .fsm) ((buildWriteFrame a r v).toList ++ rest) s →
      ∃ u, step s = .next u ∧ SessionStarts (buildWriteFrame a r v).toList id plate s u ∧ u.de = false ∧
        u.rxq = rest) ∧
    ∀ (id : CardId) (plate : Plate) (a : Byte) (r v : Word) (rest : List Byte) (w : Window) (s : State),
      s.pending = some (id, plate) → Arrived 8 ((buildWriteFrame a r v).toList ++ rest) w s →
      ∃ u, receiveContinue (.wsr a r v .fsm) w s = .next u ∧
        SessionStarts (buildWriteFrame a r v).toList id plate s u ∧ u.de = s.de ∧
        u.rxq = rest

/-- R95: a start write that fails returns to Idle and keeps nothing of the card: with eight bytes other than its
echo, at the end of the send or at a check after a yield, with the error of WSR's first failing check; with its window
over, or with none (a limit of 0) and too few bytes at the end of the send; and, in general, whenever a turn of
the control loop ends the start write with an error. That the control loop runs from hold to hold in one step is the
model's choice (log 3). -/
def Obligations.FailedStartReturnsToIdle : Prop :=
  (∀ (id : CardId) (plate : Plate) (x : List Byte) (s : State), s.fsm = .idle → roomFor 8 s →
    x.length = 8 → x ≠ (buildWriteFrame s.cfg.slaveAddress 0#16 1#16).toList →
    ∃ t u e, exec (.evCard id (some plate)) s = .next t ∧
      wsrAnswer s.cfg.slaveAddress 0#16 1#16 x = .error e ∧
      steps 3 (withAgenda [.drain (s.uart.length + 8), .deliver x, .mlb] t) = .next u ∧
      StartFails e t u ∧ u.session = s.session ∧ u.prevActive = s.prevActive ∧
      u.seedPending = s.seedPending ∧ u.lastReading = s.lastReading ∧
      u.evLog = s.evLog ++ [.startFailed e] ∧ u.lastPollMs = s.lastPollMs ∧ u.closeMs = s.closeMs ∧
      RegsSame s u ∧ OtherSame s u ∧ u.de = false) ∧
    (∀ (a : Byte) (r v : Word) (x rest : List Byte) (s : State), x.length = 8 →
      x ≠ (buildWriteFrame a r v).toList → SendOverWith (.wsr a r v .fsm) (x ++ rest) s →
      ∃ u e, step s = .next u ∧ wsrAnswer a r v x = .error e ∧ StartFails e s u ∧ u.de = false ∧ u.rxq = rest) ∧
    (∀ (a : Byte) (r v : Word) (s : State), SendOver (.wsr a r v .fsm) s → s.rxq.length < 8 →
      s.cfg.writeTimeoutMs = 0#32 →
      ∃ u, step s = .next u ∧ StartFails .timeout s u ∧ u.de = false ∧ u.rxq = []) ∧
    (∀ (a : Byte) (r v : Word) (x rest : List Byte) (w : Window) (s : State), x.length = 8 →
      x ≠ (buildWriteFrame a r v).toList → Arrived 8 (x ++ rest) w s →
      ∃ u e, receiveContinue (.wsr a r v .fsm) w s = .next u ∧ wsrAnswer a r v x = .error e ∧
        StartFails e s u ∧ u.de = s.de ∧ u.rxq = rest) ∧
    (∀ (a : Byte) (r v : Word) (w : Window) (s : State), s.activity = .receiving (.wsr a r v .fsm) w →
      nextTurn s = .mlb → WindowOver w s →
      ∃ u, step s = .next u ∧ StartFails .timeout s u ∧ u.de = s.de ∧ u.rxq = []) ∧
    ∀ (s u : State) (e : ProtocolError), startInProgress s.activity = true → nextTurn s = .mlb →
      step s = .next u → u.activity = .none → u.res = .error e → StartFails e s u

/-- R96: what a tick does that begins no exchange: in SessionStarting, in SessionActive with no poll due, and in
SessionClosing within the summary window and after it. -/
def Obligations.TickWithoutExchange : Prop :=
  (∀ s : State, s.fsm = .sessionStarting → exec .evTick s = .next s) ∧
    (∀ s : State, s.fsm = .sessionActive → s.seedPending = false →
      (s.now - s.lastPollMs).toNat < s.cfg.pollIntervalMs.toNat → exec .evTick s = .next s) ∧
    (∀ s : State, s.fsm = .sessionClosing →
      (s.now - s.closeMs).toNat < s.cfg.summaryDisplayMs.toNat → exec .evTick s = .next s) ∧
    ∀ s : State, s.fsm = .sessionClosing →
      s.cfg.summaryDisplayMs.toNat ≤ (s.now - s.closeMs).toNat →
      exec .evTick s =
        .next { s with
                session := { active := false, driverId := none, plate := none, lastCl := 0#32 }
                fsm := .idle
                evLog := s.evLog ++ [.idle] }

/-- R96, R97, R98, with R89: a due poll reads registers 1 to 6; a correct response, there at the end of the send or
completed at a check after a yield, is in RXBUF and its registers in REGS, replaces the reading, moves the session
volume, emits UPDATED, and on the falling edge of the session-active bit closes the session. That the control loop
runs from hold to hold in one step is the model's choice (log 3). -/
def Obligations.DuePollTakesReading : Prop :=
  ∀ (d0 d1 d2 d3 d4 d5 d6 d7 d8 d9 d10 d11 : Byte),
    let data := [d0, d1, d2, d3, d4, d5, d6, d7, d8, d9, d10, d11]
    let m : MeterReading :=
      { status := u16 d0 d1, sessionCl := u32 (u16 d2 d3) (u16 d4 d5), totalCl := u32 (u16 d6 d7) (u16 d8 d9),
        flowClPerMin := u16 d10 d11 }
    (∀ s : State, s.fsm = .sessionActive →
      (s.seedPending = true ∨ s.cfg.pollIntervalMs.toNat ≤ (s.now - s.lastPollMs).toNat) → roomFor 17 s →
      let f := buildReadFrame s.cfg.slaveAddress 1#16 6#16
      ∃ t, exec .evTick s = .next t ∧
        t = { s with
              seedPending := false
              lastPollMs := s.now
              txBuf := f
              txValid := true
              regCount := 0#6
              rxq := []
              de := true
              txTrace := s.txTrace ++ f.toList.map (fun b => (b, true))
              uart := s.uart ++ f.toList
              busy := true
              activity := .sending (.rhr s.cfg.slaveAddress 6#16 .fsm) } ∧
        ∃ u, steps 3 (withAgenda
              [.drain (s.uart.length + 8), .deliver (responseFrame s.cfg.slaveAddress data), .mlb] t) = .next u ∧
          PollSucceeds s.cfg.slaveAddress data m (d1.getLsbD 1) t u ∧ u.de = false ∧ u.rxq = []) ∧
      (∀ (a : Byte) (rest : List Byte) (s : State),
        SendOverWith (.rhr a 6#16 .fsm) (responseFrame a data ++ rest) s →
        ∃ u, step s = .next u ∧ PollSucceeds a data m (d1.getLsbD 1) s u ∧ u.de = false ∧ u.rxq = rest) ∧
      (∀ (a : Byte) (rest : List Byte) (w : Window) (s : State), Arrived 3 (responseFrame a data ++ rest) w s →
        ∃ u, receiveContinue (.header a 6#16 .fsm) w s = .next u ∧
          PollSucceeds a data m (d1.getLsbD 1) s u ∧ u.de = s.de ∧ u.rxq = rest) ∧
      ∀ (a : Byte) (rest : List Byte) (w : Window) (s : State),
        Arrived 14 ((responseFrame a data).drop 3 ++ rest) w s →
        ∃ u, receiveContinue (.body 6#16 [a, 0x03#8, 0x0C#8] .fsm) w s = .next u ∧
          PollSucceeds a data m (d1.getLsbD 1) s u ∧ u.de = s.de ∧ u.rxq = rest

/-- R97: a poll that fails emits POLL_FAILED with its error and changes neither PREV_ACTIVE, LAST_READING nor
S_LAST_CL; the session stays as it is: with a window over, or with none (a limit of 0) and too few bytes there; with a
header that RHR's checks do not pass; with a wrong CRC, each at the end of the send or at a check after a yield; and,
in general, whenever a turn of the control loop ends the poll with an error. That the control loop runs from hold to
hold in one step is the model's choice (log 3). -/
def Obligations.FailedPollKeepsSession : Prop :=
  (∀ (x : Receiver) (w : Window) (s : State),
    ((∃ a c, x = .header a c .fsm) ∨ ∃ c h, x = .body c h .fsm) →
    s.activity = .receiving x w → nextTurn s = .mlb → WindowOver w s →
    ∃ u, step s = .next u ∧ PollFails .timeout s u ∧ u.de = s.de ∧ u.rxq = []) ∧
    (∀ (a : Byte) (count : Word) (s : State), s.cfg.readTimeoutMs = 0#32 →
      (SendOver (.rhr a count .fsm) s → s.rxq.length < 3 →
        ∃ u, step s = .next u ∧ PollFails .timeout s u ∧ u.de = false ∧ u.rxq = []) ∧
        ∀ (h2 : Byte) (rest : List Byte), h2.toNat = 2 * count.toNat → rest.length < 2 * count.toNat + 2 →
          (SendOverWith (.rhr a count .fsm) (a :: 0x03#8 :: h2 :: rest) s →
            ∃ u, step s = .next u ∧ PollFails .timeout s u ∧ u.de = false ∧ u.rxq = []) ∧
            ∀ w : Window, Arrived 3 (a :: 0x03#8 :: h2 :: rest) w s →
              ∃ u, receiveContinue (.header a count .fsm) w s = .next u ∧ PollFails .timeout s u ∧
                u.de = s.de ∧ u.rxq = []) ∧
    (∀ (a : Byte) (count : Word) (h0 h1 h2 : Byte) (rest : List Byte) (s : State),
      SendOverWith (.rhr a count .fsm) (h0 :: h1 :: h2 :: rest) s → BadHeader a count h0 h1 h2 →
      ∃ u, step s = .next u ∧ PollFails (headerError a h0 h1) s u ∧ u.de = false ∧ u.rxq = rest) ∧
    (∀ (a : Byte) (count : Word) (h2 : Byte) (b rest : List Byte) (s : State), h2.toNat = 2 * count.toNat →
      b.length = 2 * count.toNat + 2 → crcOk (a :: 0x03#8 :: h2 :: b) = false →
      (SendOverWith (.rhr a count .fsm) (a :: 0x03#8 :: h2 :: (b ++ rest)) s →
        ∃ u, step s = .next u ∧ PollFails .crcMismatch s u ∧ u.de = false ∧ u.rxq = rest) ∧
        ∀ w : Window, Arrived 3 (a :: 0x03#8 :: h2 :: (b ++ rest)) w s →
          ∃ u, receiveContinue (.header a count .fsm) w s = .next u ∧ PollFails .crcMismatch s u ∧
            u.de = s.de ∧ u.rxq = rest) ∧
    (∀ (a : Byte) (count : Word) (h0 h1 h2 : Byte) (rest : List Byte) (w : Window) (s : State),
      Arrived 3 (h0 :: h1 :: h2 :: rest) w s → BadHeader a count h0 h1 h2 →
      ∃ u, receiveContinue (.header a count .fsm) w s = .next u ∧ PollFails (headerError a h0 h1) s u ∧
        u.de = s.de ∧ u.rxq = rest) ∧
    (∀ (count : Word) (h b rest : List Byte) (w : Window) (s : State), Arrived b.length (b ++ rest) w s →
      crcOk (h ++ b) = false →
      ∃ u, receiveContinue (.body count h .fsm) w s = .next u ∧ PollFails .crcMismatch s u ∧ u.de = s.de ∧
        u.rxq = rest) ∧
    ∀ (s u : State) (e : ProtocolError), pollInProgress s.activity = true → nextTurn s = .mlb →
      step s = .next u → u.activity = .none → u.res = .error e → PollFails e s u

/-- R99: readings that never show the session-active bit close nothing; R98: the bit sequence 1, ..., 1, 0 closes
exactly once, on the last reading, with its session volume. -/
def Obligations.SessionClosesOnceOnTheFallingEdge : Prop :=
  (∀ (readings : List MeterReading) (s : State), s.fsm = .sessionActive → s.prevActive = false →
    (∀ m ∈ readings, m.status.getLsbD 1 = false) →
    (pollSequence readings s).fsm = .sessionActive ∧
      (pollSequence readings s).evLog = s.evLog ++ readings.map .updated) ∧
    ∀ (readings : List MeterReading) (last : MeterReading) (s : State), s.fsm = .sessionActive →
      readings ≠ [] → (∀ m ∈ readings, m.status.getLsbD 1 = true) → last.status.getLsbD 1 = false →
      (pollSequence (readings ++ [last]) s).fsm = .sessionClosing ∧
        (pollSequence (readings ++ [last]) s).evLog =
          s.evLog ++ readings.map .updated ++ [.updated last, .closed last.sessionCl]

/-- R92: from a consistent state, every step but a reset makes one of the moves of the transition table, with that
row's events. -/
def Obligations.SessionMovesAreTheTables : Prop :=
  ∀ s t : State, StateOk s → ¬resetTurn s → step s = .next t → TableMove s t

/-! Wire frames (30_encoding.md Part A; the meaning as instructions is the model's choice, log 13). -/

/-- Log 13, with 20_memory.md R32 and 10_state.md R20: a response frame's bytes arrive at RXQ, and nothing else
changes. -/
def Obligations.ResponseFramesArrive : Prop :=
  ∀ (a : Byte) (r v crc : Word) (data : List Byte) (s : State),
    exec (.wrsp a r v crc) s =
      .next { s with rxq := appendRx s.params.rxCapacity s.rxq (requestBody a 0x06#8 r v ++ crcField crc) } ∧
    exec (.rrsp a data crc) s =
      .next { s with rxq := appendRx s.params.rxCapacity s.rxq (responseBody a data ++ crcField crc) }

/-- Log 13, with 42_transport.md R77: a request frame is sent, and when the UART has drained the send ends; SEND of
the same bytes in TXBUF does the same. -/
def Obligations.RequestFramesAreSent : Prop :=
  ∀ (a : Byte) (x y crc : Word) (i : Instr) (s : State),
    (i = .wreq a x y crc ∨ i = .rreq a x y crc) →
    ∀ f, encode i = .outbound f →
      ∃ t, exec i s = .next t ∧
        t = { s with
              rxq := []
              de := true
              txTrace := s.txTrace ++ f.map (fun b => (b, true))
              uart := s.uart ++ f
              busy := true
              activity := .sending .command } ∧
        steps 2 (withAgenda [.drain (s.uart.length + 8), .mlb] t) =
          .next { t with
                  de := false
                  busy := false
                  activity := .none
                  uart := []
                  agenda := []
                  turnCount := s.turnCount + 2 } ∧
        (s.txValid = true → s.txBuf.toList = f → exec .send s = exec i s)

/-- 20_memory.md R32, 10_state.md R20: whatever bytes the line delivers, they arrive at RXQ in order as far as there
is room, and nothing else changes: giving response frames a meaning of their own does not change what the line
does (log 13). -/
def Obligations.LineDeliversAnyBytes : Prop :=
  ∀ (bytes : List Byte) (s : State), nextTurn s = .deliver bytes →
    step s = .next { takeTurn s with rxq := appendRx s.params.rxCapacity s.rxq bytes }

/-- R20: RXQ takes what it has room for, keeps what it has, and never exceeds RX_CAPACITY. -/
def Obligations.FullReceiveBufferLosesBytes : Prop :=
  ∀ (capacity : Option Nat) (queue bytes : List Byte), fits capacity queue.length →
    fits capacity (appendRx capacity queue bytes).length ∧
      (fits capacity (queue.length + bytes.length) → appendRx capacity queue bytes = queue ++ bytes) ∧
      (∀ n, capacity = some n → queue.length = n → appendRx capacity queue bytes = queue) ∧
      ∀ b rest, bytes = b :: rest →
        appendRx capacity queue bytes = appendRx capacity (appendRx capacity queue [b]) rest

/-! The machine as a whole. -/

/-- R116, R118: reset during anything puts every element at its reset value, those the rule leaves free at the reset
input's, and DE at 0 at once. That RXQ keeps what it has room for, and that the UART keeps its bytes, is the
model's choice (log 9). -/
def Obligations.ResetLeavesTheResetValues : Prop :=
  ∀ (r : ResetInput) (s : State), nextTurn s = .reset r →
    ∃ t, step s = .next t ∧ t.fsm = .idle ∧ t.de = false ∧ t.busy = false ∧ t.refused = false ∧
      t.session = { active := false, driverId := none, plate := none, lastCl := 0#32 } ∧
      t.pending = none ∧ t.lastReading = none ∧ t.prevActive = false ∧ t.seedPending = false ∧
      t.crcReg = 0xFFFF#16 ∧ t.txValid = false ∧ t.rxLen = 0#7 ∧ t.res = .ok ∧ t.regCount = 0#6 ∧
      t.evLog = [] ∧ t.txTrace = [] ∧ t.activity = .none ∧ t.cfg = r.cfg ∧ t.lastPollMs = r.lastPollMs ∧
      t.closeMs = r.closeMs ∧ t.txBuf = r.txBuf ∧ t.rxBuf = r.rxBuf ∧ t.regs = r.regs ∧ t.now = r.now ∧
      t.rxq = appendRx s.params.rxCapacity [] r.rxq ∧ t.uart = s.uart

/-- R116 and R14's reference values: the reset state's elements to which the spec gives a value. -/
def Obligations.ResetStateHasTheSpecsValues : Prop :=
  let s := State.reset
  s.fsm = .idle ∧ s.de = false ∧ s.busy = false ∧ s.refused = false ∧
    s.session = { active := false, driverId := none, plate := none, lastCl := 0#32 } ∧
    s.pending = none ∧ s.lastReading = none ∧ s.prevActive = false ∧ s.seedPending = false ∧
    s.crcReg = 0xFFFF#16 ∧ s.txValid = false ∧ s.rxLen = 0#7 ∧ s.res = .ok ∧ s.regCount = 0#6 ∧
    s.evLog = [] ∧ s.txTrace = [] ∧
    s.cfg = { slaveAddress := 1#8, pollIntervalMs := 300#32, writeTimeoutMs := 100#32,
              readTimeoutMs := 100#32, summaryDisplayMs := 3000#32 }

/-- The invariants hold at reset, and the OPEN parameters meet the conditions of R4 there. The empty RXQ and the free
parameters there are the model's choice (log 5, log 8). -/
def Obligations.ResetStateIsConsistent : Prop :=
  StateOk State.reset ∧ TimingOk State.reset ∧ ParamsOk State.reset

/-- Every step keeps the state consistent: BUSY, DE, the queue's bound, RXLEN and REGCOUNT, the exchange in progress,
the session record, PENDING, the seed poll and the remembered edge (R13, R17 to R25, R79, R92 to R98). -/
def Obligations.StepKeepsStateConsistent : Prop :=
  ∀ s t : State, StateOk s → step s = .next t → StateOk t

/-- 60_exceptions.md: the MLB has no traps. From a consistent state every step gives a next state. The one fault the
model has is its own (log 14). -/
def Obligations.ConsistentStateNeverStops : Prop :=
  ∀ s : State, StateOk s → ∃ t, step s = .next t

/-- R22 and the model's command port (log 1): when the control loop is not busy and it is its turn, the oldest command
on the port, if it decodes to i, is run as i, with the turn taken and the command off the port. -/
def Obligations.StepRunsDecodedCommand : Prop :=
  ∀ (i : Instr) (c : Command) (rest : List Command) (s : State),
    s.activity = .none → s.busy = false → nextTurn s = .mlb → s.port = c :: rest →
    decodeCommand c = .ok i → step s = exec i { takeTurn s with port := rest }

/-- Log 1 and log 13: a table word placed by withFetchWord is what the next step runs: an instruction that
decodeTableWord reads is run by that step. -/
def Obligations.StepRunsPlacedTableWord : Prop :=
  ∀ (nbits w : Nat) (i : Instr) (s : State), decodeTableWord nbits w = some i →
    ∃ u, step (s.withFetchWord nbits w) = exec i u ∧
      SessionSame s u ∧ OtherSame s u ∧ u.agenda = s.agenda ∧ u.rxq = s.rxq ∧ u.uart = s.uart ∧
      u.txTrace = s.txTrace

/-- R22: a presented command reaches the port, whatever BUSY is, and nothing else changes; while BUSY is 1 a waiting
command stays there, and is not lost. That the port is a queue is the model's choice (log 19). -/
def Obligations.BusyHoldsWaitingCommands : Prop :=
  (∀ (s : State) (c : Command), nextTurn s = .present c →
    step s = .next { takeTurn s with port := s.port ++ [c] }) ∧
    ∀ s t : State, s.busy = true → ¬resetTurn s → step s = .next t → s.port <+: t.port

/-- R21, R27, R29: across every step but a reset, TXTRACE and EVLOG only grow at their ends and REFUSED stays set. -/
def Obligations.LogsOnlyGrow : Prop :=
  ∀ s t : State, ¬resetTurn s → step s = .next t →
    s.txTrace <+: t.txTrace ∧ s.evLog <+: t.evLog ∧ (s.refused = true → t.refused = true)

/-- R14, R15, R28: across every step but a reset, CFG and the OPEN parameters stay, only the clock's turn moves NOW,
and by 1, and only CRC_INIT and CRC_BYTE write CRCREG; and the clock's turn, no check being overdue, does move NOW by
1, and nothing else. That an overdue check comes first is the model's inference (log 6). -/
def Obligations.OnlyTheirOwnersWriteRegisters : Prop :=
  (∀ s : State, nextTurn s = .clock → checkOverdue s = false →
    step s = .next { takeTurn s with now := s.now + 1#32 }) ∧
    ∀ s t : State, ¬resetTurn s → step s = .next t →
      t.cfg = s.cfg ∧ t.params = s.params ∧
        (t.now = s.now ∨ (nextTurn s = .clock ∧ t.now = s.now + 1#32)) ∧
        (t.crcReg = s.crcReg ∨ accepts .crcInit s ∨ ∃ d, accepts (.crcByte d) s)

/-- R90: an exchange sends once: while a command is in progress nothing more is pushed to the UART. It rests on the
model's choice of log 3: by R22 and R77 a send's bytes are pushed with BUSY = 1, and no state between steps shows
that only because the control loop runs in one step from a command's acceptance to its first hold. -/
def Obligations.NothingIsPushedWhileBusy : Prop :=
  ∀ s t : State, s.busy = true → ¬resetTurn s → step s = .next t → t.txTrace = s.txTrace
end

