-- ==== Sys2Proof/Laws/Bits.lean ====
section
/-! SUPPORT. The bits of bytes and words: a word is its two bytes, and each field of an encoded command word reads
back as it was written. -/

namespace Sys2Proof.Machine

open Sys2Proof

@[simp] theorem hiByte_u16 (hi lo : Byte) : hiByte (u16 hi lo) = hi := by
  ext k hk; interval_cases k <;> simp [hiByte, u16]

@[simp] theorem loByte_u16 (hi lo : Byte) : loByte (u16 hi lo) = lo := by
  ext k hk; interval_cases k <;> simp [loByte, u16]

@[simp] theorem u16_hiByte_loByte (w : Word) : u16 (hiByte w) (loByte w) = w := by
  ext k hk; interval_cases k <;> simp [hiByte, loByte, u16]

@[simp] theorem opcode_wordOp (op : Byte) : opcode (wordOp op) = op := by
  ext k hk; interval_cases k <;> simp [opcode, wordOp]

@[simp] theorem opcode_wordByte (op b : Byte) : opcode (wordByte op b) = op := by
  ext k hk; interval_cases k <;> simp [opcode, wordByte]

@[simp] theorem fieldByte_wordByte (op b : Byte) : fieldByte (wordByte op b) = b := by
  ext k hk; interval_cases k <;> simp [fieldByte, wordByte]

@[simp] theorem opcode_wordTriple (op b : Byte) (l h : Word) : opcode (wordTriple op b l h) = op := by
  ext k hk; interval_cases k <;> simp [opcode, wordTriple]

@[simp] theorem fieldByte_wordTriple (op b : Byte) (l h : Word) : fieldByte (wordTriple op b l h) = b := by
  ext k hk; interval_cases k <;> simp [fieldByte, wordTriple]

@[simp] theorem fieldLow_wordTriple (op b : Byte) (l h : Word) : fieldLow (wordTriple op b l h) = l := by
  ext k hk; interval_cases k <;> simp [fieldLow, wordTriple]

@[simp] theorem fieldHigh_wordTriple (op b : Byte) (l h : Word) : fieldHigh (wordTriple op b l h) = h := by
  ext k hk; interval_cases k <;> simp [fieldHigh, wordTriple]

@[simp] theorem opcode_wordTime (op b : Byte) (t : Ms) : opcode (wordTime op b t) = op := by
  ext k hk; interval_cases k <;> simp [opcode, wordTime]

@[simp] theorem fieldByte_wordTime (op b : Byte) (t : Ms) : fieldByte (wordTime op b t) = b := by
  ext k hk; interval_cases k <;> simp [fieldByte, wordTime]

@[simp] theorem fieldTime_wordTime (op b : Byte) (t : Ms) : fieldTime (wordTime op b t) = t := by
  ext k hk; interval_cases k <;> simp [fieldTime, wordTime]

@[simp] theorem reservedZero_wordOp (op : Byte) : reservedZero 8 (wordOp op) = true := by
  simp only [reservedZero, beq_iff_eq]
  ext k hk; interval_cases k <;> simp [wordOp]

@[simp] theorem reservedZero_wordByte (op b : Byte) : reservedZero 16 (wordByte op b) = true := by
  simp only [reservedZero, beq_iff_eq]
  ext k hk; interval_cases k <;> simp [wordByte]

@[simp] theorem reservedZero_wordTriple (op b : Byte) (l h : Word) :
    reservedZero 48 (wordTriple op b l h) = true := by
  simp only [reservedZero, beq_iff_eq]
  ext k hk; interval_cases k <;> simp [wordTriple]

@[simp] theorem reservedZero_wordTime (op b : Byte) (t : Ms) : reservedZero 48 (wordTime op b t) = true := by
  simp only [reservedZero, beq_iff_eq]
  ext k hk; interval_cases k <;> simp [wordTime]

end Sys2Proof.Machine
end

