-- ==== Sys2Proof/Laws/Crc.lean ====
section
/-! SUPPORT. The CRC of a sequence in parts, and of a sequence that carries its own CRC field. -/

namespace Sys2Proof.Machine

open Sys2Proof

/-- The CRC of a sequence goes on from that of its first part (R63). -/
theorem crc16_append (p q : List Byte) : crc16 (p ++ q) = q.foldl bytestep (crc16 p) := by
  simp [crc16]

/-- A byte step acts on the sum of the accumulator and the byte alone (R62). -/
theorem bytestep_eq (c : Word) (b : Byte) : bytestep c b = bytestep (c ^^^ b.setWidth 16) 0#8 := by
  simp [bytestep]

/-- A sequence followed by its own CRC field passes the check (R71). -/
theorem crcOk_own (p : List Byte) : crcOk (p ++ crcField (crc16 p)) = true := by
  simp [crcOk, crcField]

/-- What the check says of a sequence that ends in two given bytes (R71). -/
theorem crcOk_field (p : List Byte) (low high : Byte) :
    crcOk (p ++ [low, high]) = (u16 high low == crc16 p) := by
  simp [crcOk]

end Sys2Proof.Machine
end

