-- ==== Sys2Proof/Laws/Decode.lean ====
section
/-! SUPPORT. What the decoders can answer. -/

namespace Sys2Proof

open Sys2Proof.Machine

theorem ifReservedZero_ok {k : Nat} {w : BitVec 64} {i j : Instr} (h : ifReservedZero k w i = .ok j) :
    j = i ∧ reservedZero k w = true := by
  unfold ifReservedZero at h
  split at h
  · injection h with h; exact ⟨h.symm, ‹_›⟩
  · cases h

theorem checkReceive_ok {n : Byte} {t : Ms} {j : Instr} (h : checkReceive n t = .ok j) :
    j = .receive n t ∧ 1 ≤ n.toNat ∧ n.toNat ≤ 69 := by
  unfold checkReceive at h
  split at h
  · injection h with h; exact ⟨h.symm, ‹_›⟩
  · cases h

/-- Everything the command decoder answers, with the opcode and the reserved bits that it has checked. -/
theorem decodeCommand_ok {c : Command} {i : Instr} (h : decodeCommand c = .ok i) :
    (opcode c.word = 0x01#8 ∧ reservedZero 8 c.word = true ∧ i = .crcInit) ∨
    (opcode c.word = 0x02#8 ∧ reservedZero 16 c.word = true ∧ i = .crcByte (fieldByte c.word)) ∨
    (opcode c.word = 0x10#8 ∧ reservedZero 48 c.word = true ∧
      i = .buildWrite (fieldByte c.word) (fieldLow c.word) (fieldHigh c.word)) ∨
    (opcode c.word = 0x11#8 ∧ reservedZero 48 c.word = true ∧
      i = .buildRead (fieldByte c.word) (fieldLow c.word) (fieldHigh c.word)) ∨
    (opcode c.word = 0x20#8 ∧ reservedZero 8 c.word = true ∧ i = .send) ∨
    (opcode c.word = 0x21#8 ∧ reservedZero 48 c.word = true ∧
      i = .receive (fieldByte c.word) (fieldTime c.word) ∧
      1 ≤ (fieldByte c.word).toNat ∧ (fieldByte c.word).toNat ≤ 69) ∨
    (opcode c.word = 0x30#8 ∧ reservedZero 48 c.word = true ∧
      i = .wsr (fieldByte c.word) (fieldLow c.word) (fieldHigh c.word)) ∨
    (opcode c.word = 0x31#8 ∧ reservedZero 48 c.word = true ∧
      i = .rhr (fieldByte c.word) (fieldLow c.word) (fieldHigh c.word)) ∨
    (opcode c.word = 0x40#8 ∧ reservedZero 8 c.word = true ∧ i = .evCard c.id c.lookup) ∨
    (opcode c.word = 0x41#8 ∧ reservedZero 8 c.word = true ∧ i = .evTick) := by
  unfold decodeCommand at h
  dsimp only at h
  split at h
  · obtain ⟨rfl, hr⟩ := ifReservedZero_ok h; simp_all
  split at h
  · obtain ⟨rfl, hr⟩ := ifReservedZero_ok h; simp_all
  split at h
  · obtain ⟨rfl, hr⟩ := ifReservedZero_ok h; simp_all
  split at h
  · obtain ⟨rfl, hr⟩ := ifReservedZero_ok h; simp_all
  split at h
  · obtain ⟨rfl, hr⟩ := ifReservedZero_ok h; simp_all
  split at h
  · split at h
    · obtain ⟨rfl, hr⟩ := checkReceive_ok h; simp_all
    · cases h
  split at h
  · obtain ⟨rfl, hr⟩ := ifReservedZero_ok h; simp_all
  split at h
  · obtain ⟨rfl, hr⟩ := ifReservedZero_ok h; simp_all
  split at h
  · obtain ⟨rfl, hr⟩ := ifReservedZero_ok h; simp_all
  split at h
  · obtain ⟨rfl, hr⟩ := ifReservedZero_ok h; simp_all
  cases h

/-- A frame the line delivers is a write response or a read response. -/
theorem decodeInbound_ok {b : List Byte} {i : Instr} (h : decodeInbound b = .ok i) :
    (∃ a r v crc, i = .wrsp a r v crc) ∨ ∃ a data crc, i = .rrsp a data crc := by
  unfold decodeInbound at h
  split at h
  · split at h
    · unfold decodeWriteResponse at h
      split at h
      · injection h with h; exact .inl ⟨_, _, _, _, h.symm⟩
      · cases h
    · split at h
      · unfold decodeReadResponse at h
        split at h
        · split at h
          · injection h with h; exact .inr ⟨_, _, _, h.symm⟩
          · cases h
        · cases h
      · cases h
  · cases h

end Sys2Proof
end

