-- ==== Sys2Proof/Laws/State.lean ====
section
/-! SUPPORT. One lemma per field per update of the state, each true by rfl, so that no later proof unfolds a
record update. -/

namespace Sys2Proof.Machine

variable (s : State)

@[simp] theorem refuse_fsm (q : RefuseReason) : (refuse q s).fsm = s.fsm := rfl
@[simp] theorem refuse_prevActive (q : RefuseReason) : (refuse q s).prevActive = s.prevActive := rfl
@[simp] theorem refuse_seedPending (q : RefuseReason) : (refuse q s).seedPending = s.seedPending := rfl
@[simp] theorem refuse_lastPollMs (q : RefuseReason) : (refuse q s).lastPollMs = s.lastPollMs := rfl
@[simp] theorem refuse_closeMs (q : RefuseReason) : (refuse q s).closeMs = s.closeMs := rfl
@[simp] theorem refuse_pending (q : RefuseReason) : (refuse q s).pending = s.pending := rfl
@[simp] theorem refuse_session (q : RefuseReason) : (refuse q s).session = s.session := rfl
@[simp] theorem refuse_lastReading (q : RefuseReason) : (refuse q s).lastReading = s.lastReading := rfl
@[simp] theorem refuse_cfg (q : RefuseReason) : (refuse q s).cfg = s.cfg := rfl
@[simp] theorem refuse_crcReg (q : RefuseReason) : (refuse q s).crcReg = s.crcReg := rfl
@[simp] theorem refuse_txBuf (q : RefuseReason) : (refuse q s).txBuf = s.txBuf := rfl
@[simp] theorem refuse_txValid (q : RefuseReason) : (refuse q s).txValid = s.txValid := rfl
@[simp] theorem refuse_rxBuf (q : RefuseReason) : (refuse q s).rxBuf = s.rxBuf := rfl
@[simp] theorem refuse_rxLen (q : RefuseReason) : (refuse q s).rxLen = s.rxLen := rfl
@[simp] theorem refuse_res (q : RefuseReason) : (refuse q s).res = s.res := rfl
@[simp] theorem refuse_regs (q : RefuseReason) : (refuse q s).regs = s.regs := rfl
@[simp] theorem refuse_regCount (q : RefuseReason) : (refuse q s).regCount = s.regCount := rfl
@[simp] theorem refuse_de (q : RefuseReason) : (refuse q s).de = s.de := rfl
@[simp] theorem refuse_busy (q : RefuseReason) : (refuse q s).busy = s.busy := rfl
@[simp] theorem refuse_refused (q : RefuseReason) : (refuse q s).refused = true := rfl
@[simp] theorem refuse_rxq (q : RefuseReason) : (refuse q s).rxq = s.rxq := rfl
@[simp] theorem refuse_txTrace (q : RefuseReason) : (refuse q s).txTrace = s.txTrace := rfl
@[simp] theorem refuse_evLog (q : RefuseReason) : (refuse q s).evLog = s.evLog := rfl
@[simp] theorem refuse_now (q : RefuseReason) : (refuse q s).now = s.now := rfl
@[simp] theorem refuse_params (q : RefuseReason) : (refuse q s).params = s.params := rfl
@[simp] theorem refuse_uart (q : RefuseReason) : (refuse q s).uart = s.uart := rfl
@[simp] theorem refuse_port (q : RefuseReason) : (refuse q s).port = s.port := rfl
@[simp] theorem refuse_activity (q : RefuseReason) : (refuse q s).activity = s.activity := rfl
@[simp] theorem refuse_agenda (q : RefuseReason) : (refuse q s).agenda = s.agenda := rfl
@[simp] theorem refuse_turnCount (q : RefuseReason) : (refuse q s).turnCount = s.turnCount := rfl
@[simp] theorem refuse_freeCount (q : RefuseReason) : (refuse q s).freeCount = s.freeCount := rfl

@[simp] theorem emit_fsm (e : Event) : (emit e s).fsm = s.fsm := rfl
@[simp] theorem emit_prevActive (e : Event) : (emit e s).prevActive = s.prevActive := rfl
@[simp] theorem emit_seedPending (e : Event) : (emit e s).seedPending = s.seedPending := rfl
@[simp] theorem emit_lastPollMs (e : Event) : (emit e s).lastPollMs = s.lastPollMs := rfl
@[simp] theorem emit_closeMs (e : Event) : (emit e s).closeMs = s.closeMs := rfl
@[simp] theorem emit_pending (e : Event) : (emit e s).pending = s.pending := rfl
@[simp] theorem emit_session (e : Event) : (emit e s).session = s.session := rfl
@[simp] theorem emit_lastReading (e : Event) : (emit e s).lastReading = s.lastReading := rfl
@[simp] theorem emit_cfg (e : Event) : (emit e s).cfg = s.cfg := rfl
@[simp] theorem emit_crcReg (e : Event) : (emit e s).crcReg = s.crcReg := rfl
@[simp] theorem emit_txBuf (e : Event) : (emit e s).txBuf = s.txBuf := rfl
@[simp] theorem emit_txValid (e : Event) : (emit e s).txValid = s.txValid := rfl
@[simp] theorem emit_rxBuf (e : Event) : (emit e s).rxBuf = s.rxBuf := rfl
@[simp] theorem emit_rxLen (e : Event) : (emit e s).rxLen = s.rxLen := rfl
@[simp] theorem emit_res (e : Event) : (emit e s).res = s.res := rfl
@[simp] theorem emit_regs (e : Event) : (emit e s).regs = s.regs := rfl
@[simp] theorem emit_regCount (e : Event) : (emit e s).regCount = s.regCount := rfl
@[simp] theorem emit_de (e : Event) : (emit e s).de = s.de := rfl
@[simp] theorem emit_busy (e : Event) : (emit e s).busy = s.busy := rfl
@[simp] theorem emit_refused (e : Event) : (emit e s).refused = s.refused := rfl
@[simp] theorem emit_rxq (e : Event) : (emit e s).rxq = s.rxq := rfl
@[simp] theorem emit_txTrace (e : Event) : (emit e s).txTrace = s.txTrace := rfl
@[simp] theorem emit_evLog (e : Event) : (emit e s).evLog = s.evLog ++ [e] := rfl
@[simp] theorem emit_now (e : Event) : (emit e s).now = s.now := rfl
@[simp] theorem emit_params (e : Event) : (emit e s).params = s.params := rfl
@[simp] theorem emit_uart (e : Event) : (emit e s).uart = s.uart := rfl
@[simp] theorem emit_port (e : Event) : (emit e s).port = s.port := rfl
@[simp] theorem emit_activity (e : Event) : (emit e s).activity = s.activity := rfl
@[simp] theorem emit_agenda (e : Event) : (emit e s).agenda = s.agenda := rfl
@[simp] theorem emit_turnCount (e : Event) : (emit e s).turnCount = s.turnCount := rfl
@[simp] theorem emit_freeCount (e : Event) : (emit e s).freeCount = s.freeCount := rfl

@[simp] theorem discardRx_fsm : (discardRx s).fsm = s.fsm := rfl
@[simp] theorem discardRx_prevActive : (discardRx s).prevActive = s.prevActive := rfl
@[simp] theorem discardRx_seedPending : (discardRx s).seedPending = s.seedPending := rfl
@[simp] theorem discardRx_lastPollMs : (discardRx s).lastPollMs = s.lastPollMs := rfl
@[simp] theorem discardRx_closeMs : (discardRx s).closeMs = s.closeMs := rfl
@[simp] theorem discardRx_pending : (discardRx s).pending = s.pending := rfl
@[simp] theorem discardRx_session : (discardRx s).session = s.session := rfl
@[simp] theorem discardRx_lastReading : (discardRx s).lastReading = s.lastReading := rfl
@[simp] theorem discardRx_cfg : (discardRx s).cfg = s.cfg := rfl
@[simp] theorem discardRx_crcReg : (discardRx s).crcReg = s.crcReg := rfl
@[simp] theorem discardRx_txBuf : (discardRx s).txBuf = s.txBuf := rfl
@[simp] theorem discardRx_txValid : (discardRx s).txValid = s.txValid := rfl
@[simp] theorem discardRx_rxBuf : (discardRx s).rxBuf = s.rxBuf := rfl
@[simp] theorem discardRx_rxLen : (discardRx s).rxLen = s.rxLen := rfl
@[simp] theorem discardRx_res : (discardRx s).res = s.res := rfl
@[simp] theorem discardRx_regs : (discardRx s).regs = s.regs := rfl
@[simp] theorem discardRx_regCount : (discardRx s).regCount = s.regCount := rfl
@[simp] theorem discardRx_de : (discardRx s).de = s.de := rfl
@[simp] theorem discardRx_busy : (discardRx s).busy = s.busy := rfl
@[simp] theorem discardRx_refused : (discardRx s).refused = s.refused := rfl
@[simp] theorem discardRx_rxq : (discardRx s).rxq = [] := rfl
@[simp] theorem discardRx_txTrace : (discardRx s).txTrace = s.txTrace := rfl
@[simp] theorem discardRx_evLog : (discardRx s).evLog = s.evLog := rfl
@[simp] theorem discardRx_now : (discardRx s).now = s.now := rfl
@[simp] theorem discardRx_params : (discardRx s).params = s.params := rfl
@[simp] theorem discardRx_uart : (discardRx s).uart = s.uart := rfl
@[simp] theorem discardRx_port : (discardRx s).port = s.port := rfl
@[simp] theorem discardRx_activity : (discardRx s).activity = s.activity := rfl
@[simp] theorem discardRx_agenda : (discardRx s).agenda = s.agenda := rfl
@[simp] theorem discardRx_turnCount : (discardRx s).turnCount = s.turnCount := rfl
@[simp] theorem discardRx_freeCount : (discardRx s).freeCount = s.freeCount := rfl

@[simp] theorem setDe_fsm (v : Bool) : (setDe v s).fsm = s.fsm := rfl
@[simp] theorem setDe_prevActive (v : Bool) : (setDe v s).prevActive = s.prevActive := rfl
@[simp] theorem setDe_seedPending (v : Bool) : (setDe v s).seedPending = s.seedPending := rfl
@[simp] theorem setDe_lastPollMs (v : Bool) : (setDe v s).lastPollMs = s.lastPollMs := rfl
@[simp] theorem setDe_closeMs (v : Bool) : (setDe v s).closeMs = s.closeMs := rfl
@[simp] theorem setDe_pending (v : Bool) : (setDe v s).pending = s.pending := rfl
@[simp] theorem setDe_session (v : Bool) : (setDe v s).session = s.session := rfl
@[simp] theorem setDe_lastReading (v : Bool) : (setDe v s).lastReading = s.lastReading := rfl
@[simp] theorem setDe_cfg (v : Bool) : (setDe v s).cfg = s.cfg := rfl
@[simp] theorem setDe_crcReg (v : Bool) : (setDe v s).crcReg = s.crcReg := rfl
@[simp] theorem setDe_txBuf (v : Bool) : (setDe v s).txBuf = s.txBuf := rfl
@[simp] theorem setDe_txValid (v : Bool) : (setDe v s).txValid = s.txValid := rfl
@[simp] theorem setDe_rxBuf (v : Bool) : (setDe v s).rxBuf = s.rxBuf := rfl
@[simp] theorem setDe_rxLen (v : Bool) : (setDe v s).rxLen = s.rxLen := rfl
@[simp] theorem setDe_res (v : Bool) : (setDe v s).res = s.res := rfl
@[simp] theorem setDe_regs (v : Bool) : (setDe v s).regs = s.regs := rfl
@[simp] theorem setDe_regCount (v : Bool) : (setDe v s).regCount = s.regCount := rfl
@[simp] theorem setDe_de (v : Bool) : (setDe v s).de = v := rfl
@[simp] theorem setDe_busy (v : Bool) : (setDe v s).busy = s.busy := rfl
@[simp] theorem setDe_refused (v : Bool) : (setDe v s).refused = s.refused := rfl
@[simp] theorem setDe_rxq (v : Bool) : (setDe v s).rxq = s.rxq := rfl
@[simp] theorem setDe_txTrace (v : Bool) : (setDe v s).txTrace = s.txTrace := rfl
@[simp] theorem setDe_evLog (v : Bool) : (setDe v s).evLog = s.evLog := rfl
@[simp] theorem setDe_now (v : Bool) : (setDe v s).now = s.now := rfl
@[simp] theorem setDe_params (v : Bool) : (setDe v s).params = s.params := rfl
@[simp] theorem setDe_uart (v : Bool) : (setDe v s).uart = s.uart := rfl
@[simp] theorem setDe_port (v : Bool) : (setDe v s).port = s.port := rfl
@[simp] theorem setDe_activity (v : Bool) : (setDe v s).activity = s.activity := rfl
@[simp] theorem setDe_agenda (v : Bool) : (setDe v s).agenda = s.agenda := rfl
@[simp] theorem setDe_turnCount (v : Bool) : (setDe v s).turnCount = s.turnCount := rfl
@[simp] theorem setDe_freeCount (v : Bool) : (setDe v s).freeCount = s.freeCount := rfl

@[simp] theorem pushBytes_fsm (f : List Byte) : (pushBytes f s).fsm = s.fsm := rfl
@[simp] theorem pushBytes_prevActive (f : List Byte) : (pushBytes f s).prevActive = s.prevActive := rfl
@[simp] theorem pushBytes_seedPending (f : List Byte) : (pushBytes f s).seedPending = s.seedPending := rfl
@[simp] theorem pushBytes_lastPollMs (f : List Byte) : (pushBytes f s).lastPollMs = s.lastPollMs := rfl
@[simp] theorem pushBytes_closeMs (f : List Byte) : (pushBytes f s).closeMs = s.closeMs := rfl
@[simp] theorem pushBytes_pending (f : List Byte) : (pushBytes f s).pending = s.pending := rfl
@[simp] theorem pushBytes_session (f : List Byte) : (pushBytes f s).session = s.session := rfl
@[simp] theorem pushBytes_lastReading (f : List Byte) : (pushBytes f s).lastReading = s.lastReading := rfl
@[simp] theorem pushBytes_cfg (f : List Byte) : (pushBytes f s).cfg = s.cfg := rfl
@[simp] theorem pushBytes_crcReg (f : List Byte) : (pushBytes f s).crcReg = s.crcReg := rfl
@[simp] theorem pushBytes_txBuf (f : List Byte) : (pushBytes f s).txBuf = s.txBuf := rfl
@[simp] theorem pushBytes_txValid (f : List Byte) : (pushBytes f s).txValid = s.txValid := rfl
@[simp] theorem pushBytes_rxBuf (f : List Byte) : (pushBytes f s).rxBuf = s.rxBuf := rfl
@[simp] theorem pushBytes_rxLen (f : List Byte) : (pushBytes f s).rxLen = s.rxLen := rfl
@[simp] theorem pushBytes_res (f : List Byte) : (pushBytes f s).res = s.res := rfl
@[simp] theorem pushBytes_regs (f : List Byte) : (pushBytes f s).regs = s.regs := rfl
@[simp] theorem pushBytes_regCount (f : List Byte) : (pushBytes f s).regCount = s.regCount := rfl
@[simp] theorem pushBytes_de (f : List Byte) : (pushBytes f s).de = s.de := rfl
@[simp] theorem pushBytes_busy (f : List Byte) : (pushBytes f s).busy = s.busy := rfl
@[simp] theorem pushBytes_refused (f : List Byte) : (pushBytes f s).refused = s.refused := rfl
@[simp] theorem pushBytes_rxq (f : List Byte) : (pushBytes f s).rxq = s.rxq := rfl
@[simp] theorem pushBytes_txTrace (f : List Byte) :
    (pushBytes f s).txTrace = s.txTrace ++ f.map (fun b => (b, s.de)) := rfl
@[simp] theorem pushBytes_evLog (f : List Byte) : (pushBytes f s).evLog = s.evLog := rfl
@[simp] theorem pushBytes_now (f : List Byte) : (pushBytes f s).now = s.now := rfl
@[simp] theorem pushBytes_params (f : List Byte) : (pushBytes f s).params = s.params := rfl
@[simp] theorem pushBytes_uart (f : List Byte) : (pushBytes f s).uart = s.uart ++ f := rfl
@[simp] theorem pushBytes_port (f : List Byte) : (pushBytes f s).port = s.port := rfl
@[simp] theorem pushBytes_activity (f : List Byte) : (pushBytes f s).activity = s.activity := rfl
@[simp] theorem pushBytes_agenda (f : List Byte) : (pushBytes f s).agenda = s.agenda := rfl
@[simp] theorem pushBytes_turnCount (f : List Byte) : (pushBytes f s).turnCount = s.turnCount := rfl
@[simp] theorem pushBytes_freeCount (f : List Byte) : (pushBytes f s).freeCount = s.freeCount := rfl

@[simp] theorem setCrc_fsm (c : Word) : (setCrc c s).fsm = s.fsm := rfl
@[simp] theorem setCrc_prevActive (c : Word) : (setCrc c s).prevActive = s.prevActive := rfl
@[simp] theorem setCrc_seedPending (c : Word) : (setCrc c s).seedPending = s.seedPending := rfl
@[simp] theorem setCrc_lastPollMs (c : Word) : (setCrc c s).lastPollMs = s.lastPollMs := rfl
@[simp] theorem setCrc_closeMs (c : Word) : (setCrc c s).closeMs = s.closeMs := rfl
@[simp] theorem setCrc_pending (c : Word) : (setCrc c s).pending = s.pending := rfl
@[simp] theorem setCrc_session (c : Word) : (setCrc c s).session = s.session := rfl
@[simp] theorem setCrc_lastReading (c : Word) : (setCrc c s).lastReading = s.lastReading := rfl
@[simp] theorem setCrc_cfg (c : Word) : (setCrc c s).cfg = s.cfg := rfl
@[simp] theorem setCrc_crcReg (c : Word) : (setCrc c s).crcReg = c := rfl
@[simp] theorem setCrc_txBuf (c : Word) : (setCrc c s).txBuf = s.txBuf := rfl
@[simp] theorem setCrc_txValid (c : Word) : (setCrc c s).txValid = s.txValid := rfl
@[simp] theorem setCrc_rxBuf (c : Word) : (setCrc c s).rxBuf = s.rxBuf := rfl
@[simp] theorem setCrc_rxLen (c : Word) : (setCrc c s).rxLen = s.rxLen := rfl
@[simp] theorem setCrc_res (c : Word) : (setCrc c s).res = s.res := rfl
@[simp] theorem setCrc_regs (c : Word) : (setCrc c s).regs = s.regs := rfl
@[simp] theorem setCrc_regCount (c : Word) : (setCrc c s).regCount = s.regCount := rfl
@[simp] theorem setCrc_de (c : Word) : (setCrc c s).de = s.de := rfl
@[simp] theorem setCrc_busy (c : Word) : (setCrc c s).busy = s.busy := rfl
@[simp] theorem setCrc_refused (c : Word) : (setCrc c s).refused = s.refused := rfl
@[simp] theorem setCrc_rxq (c : Word) : (setCrc c s).rxq = s.rxq := rfl
@[simp] theorem setCrc_txTrace (c : Word) : (setCrc c s).txTrace = s.txTrace := rfl
@[simp] theorem setCrc_evLog (c : Word) : (setCrc c s).evLog = s.evLog := rfl
@[simp] theorem setCrc_now (c : Word) : (setCrc c s).now = s.now := rfl
@[simp] theorem setCrc_params (c : Word) : (setCrc c s).params = s.params := rfl
@[simp] theorem setCrc_uart (c : Word) : (setCrc c s).uart = s.uart := rfl
@[simp] theorem setCrc_port (c : Word) : (setCrc c s).port = s.port := rfl
@[simp] theorem setCrc_activity (c : Word) : (setCrc c s).activity = s.activity := rfl
@[simp] theorem setCrc_agenda (c : Word) : (setCrc c s).agenda = s.agenda := rfl
@[simp] theorem setCrc_turnCount (c : Word) : (setCrc c s).turnCount = s.turnCount := rfl
@[simp] theorem setCrc_freeCount (c : Word) : (setCrc c s).freeCount = s.freeCount := rfl

@[simp] theorem popPort_fsm : (popPort s).fsm = s.fsm := rfl
@[simp] theorem popPort_prevActive : (popPort s).prevActive = s.prevActive := rfl
@[simp] theorem popPort_seedPending : (popPort s).seedPending = s.seedPending := rfl
@[simp] theorem popPort_lastPollMs : (popPort s).lastPollMs = s.lastPollMs := rfl
@[simp] theorem popPort_closeMs : (popPort s).closeMs = s.closeMs := rfl
@[simp] theorem popPort_pending : (popPort s).pending = s.pending := rfl
@[simp] theorem popPort_session : (popPort s).session = s.session := rfl
@[simp] theorem popPort_lastReading : (popPort s).lastReading = s.lastReading := rfl
@[simp] theorem popPort_cfg : (popPort s).cfg = s.cfg := rfl
@[simp] theorem popPort_crcReg : (popPort s).crcReg = s.crcReg := rfl
@[simp] theorem popPort_txBuf : (popPort s).txBuf = s.txBuf := rfl
@[simp] theorem popPort_txValid : (popPort s).txValid = s.txValid := rfl
@[simp] theorem popPort_rxBuf : (popPort s).rxBuf = s.rxBuf := rfl
@[simp] theorem popPort_rxLen : (popPort s).rxLen = s.rxLen := rfl
@[simp] theorem popPort_res : (popPort s).res = s.res := rfl
@[simp] theorem popPort_regs : (popPort s).regs = s.regs := rfl
@[simp] theorem popPort_regCount : (popPort s).regCount = s.regCount := rfl
@[simp] theorem popPort_de : (popPort s).de = s.de := rfl
@[simp] theorem popPort_busy : (popPort s).busy = s.busy := rfl
@[simp] theorem popPort_refused : (popPort s).refused = s.refused := rfl
@[simp] theorem popPort_rxq : (popPort s).rxq = s.rxq := rfl
@[simp] theorem popPort_txTrace : (popPort s).txTrace = s.txTrace := rfl
@[simp] theorem popPort_evLog : (popPort s).evLog = s.evLog := rfl
@[simp] theorem popPort_now : (popPort s).now = s.now := rfl
@[simp] theorem popPort_params : (popPort s).params = s.params := rfl
@[simp] theorem popPort_uart : (popPort s).uart = s.uart := rfl
@[simp] theorem popPort_port : (popPort s).port = s.port.tail := rfl
@[simp] theorem popPort_activity : (popPort s).activity = s.activity := rfl
@[simp] theorem popPort_agenda : (popPort s).agenda = s.agenda := rfl
@[simp] theorem popPort_turnCount : (popPort s).turnCount = s.turnCount := rfl
@[simp] theorem popPort_freeCount : (popPort s).freeCount = s.freeCount := rfl

@[simp] theorem loadTx_fsm (f : Vector Byte 8) : (loadTx f s).fsm = s.fsm := rfl
@[simp] theorem loadTx_prevActive (f : Vector Byte 8) : (loadTx f s).prevActive = s.prevActive := rfl
@[simp] theorem loadTx_seedPending (f : Vector Byte 8) : (loadTx f s).seedPending = s.seedPending := rfl
@[simp] theorem loadTx_lastPollMs (f : Vector Byte 8) : (loadTx f s).lastPollMs = s.lastPollMs := rfl
@[simp] theorem loadTx_closeMs (f : Vector Byte 8) : (loadTx f s).closeMs = s.closeMs := rfl
@[simp] theorem loadTx_pending (f : Vector Byte 8) : (loadTx f s).pending = s.pending := rfl
@[simp] theorem loadTx_session (f : Vector Byte 8) : (loadTx f s).session = s.session := rfl
@[simp] theorem loadTx_lastReading (f : Vector Byte 8) : (loadTx f s).lastReading = s.lastReading := rfl
@[simp] theorem loadTx_cfg (f : Vector Byte 8) : (loadTx f s).cfg = s.cfg := rfl
@[simp] theorem loadTx_crcReg (f : Vector Byte 8) : (loadTx f s).crcReg = s.crcReg := rfl
@[simp] theorem loadTx_txBuf (f : Vector Byte 8) : (loadTx f s).txBuf = f := rfl
@[simp] theorem loadTx_txValid (f : Vector Byte 8) : (loadTx f s).txValid = true := rfl
@[simp] theorem loadTx_rxBuf (f : Vector Byte 8) : (loadTx f s).rxBuf = s.rxBuf := rfl
@[simp] theorem loadTx_rxLen (f : Vector Byte 8) : (loadTx f s).rxLen = s.rxLen := rfl
@[simp] theorem loadTx_res (f : Vector Byte 8) : (loadTx f s).res = s.res := rfl
@[simp] theorem loadTx_regs (f : Vector Byte 8) : (loadTx f s).regs = s.regs := rfl
@[simp] theorem loadTx_regCount (f : Vector Byte 8) : (loadTx f s).regCount = s.regCount := rfl
@[simp] theorem loadTx_de (f : Vector Byte 8) : (loadTx f s).de = s.de := rfl
@[simp] theorem loadTx_busy (f : Vector Byte 8) : (loadTx f s).busy = s.busy := rfl
@[simp] theorem loadTx_refused (f : Vector Byte 8) : (loadTx f s).refused = s.refused := rfl
@[simp] theorem loadTx_rxq (f : Vector Byte 8) : (loadTx f s).rxq = s.rxq := rfl
@[simp] theorem loadTx_txTrace (f : Vector Byte 8) : (loadTx f s).txTrace = s.txTrace := rfl
@[simp] theorem loadTx_evLog (f : Vector Byte 8) : (loadTx f s).evLog = s.evLog := rfl
@[simp] theorem loadTx_now (f : Vector Byte 8) : (loadTx f s).now = s.now := rfl
@[simp] theorem loadTx_params (f : Vector Byte 8) : (loadTx f s).params = s.params := rfl
@[simp] theorem loadTx_uart (f : Vector Byte 8) : (loadTx f s).uart = s.uart := rfl
@[simp] theorem loadTx_port (f : Vector Byte 8) : (loadTx f s).port = s.port := rfl
@[simp] theorem loadTx_activity (f : Vector Byte 8) : (loadTx f s).activity = s.activity := rfl
@[simp] theorem loadTx_agenda (f : Vector Byte 8) : (loadTx f s).agenda = s.agenda := rfl
@[simp] theorem loadTx_turnCount (f : Vector Byte 8) : (loadTx f s).turnCount = s.turnCount := rfl
@[simp] theorem loadTx_freeCount (f : Vector Byte 8) : (loadTx f s).freeCount = s.freeCount := rfl

@[simp] theorem storeResponse_fsm (x : List Byte) : (storeResponse x s).fsm = s.fsm := rfl
@[simp] theorem storeResponse_prevActive (x : List Byte) :
    (storeResponse x s).prevActive = s.prevActive := rfl
@[simp] theorem storeResponse_seedPending (x : List Byte) :
    (storeResponse x s).seedPending = s.seedPending := rfl
@[simp] theorem storeResponse_lastPollMs (x : List Byte) :
    (storeResponse x s).lastPollMs = s.lastPollMs := rfl
@[simp] theorem storeResponse_closeMs (x : List Byte) : (storeResponse x s).closeMs = s.closeMs := rfl
@[simp] theorem storeResponse_pending (x : List Byte) : (storeResponse x s).pending = s.pending := rfl
@[simp] theorem storeResponse_session (x : List Byte) : (storeResponse x s).session = s.session := rfl
@[simp] theorem storeResponse_lastReading (x : List Byte) :
    (storeResponse x s).lastReading = s.lastReading := rfl
@[simp] theorem storeResponse_cfg (x : List Byte) : (storeResponse x s).cfg = s.cfg := rfl
@[simp] theorem storeResponse_crcReg (x : List Byte) : (storeResponse x s).crcReg = s.crcReg := rfl
@[simp] theorem storeResponse_txBuf (x : List Byte) : (storeResponse x s).txBuf = s.txBuf := rfl
@[simp] theorem storeResponse_txValid (x : List Byte) : (storeResponse x s).txValid = s.txValid := rfl
@[simp] theorem storeResponse_rxBuf (x : List Byte) : (storeResponse x s).rxBuf = rxBufOf x s.freeCount := rfl
@[simp] theorem storeResponse_rxLen (x : List Byte) :
    (storeResponse x s).rxLen = BitVec.ofNat 7 x.length := rfl
@[simp] theorem storeResponse_res (x : List Byte) : (storeResponse x s).res = s.res := rfl
@[simp] theorem storeResponse_regs (x : List Byte) : (storeResponse x s).regs = s.regs := rfl
@[simp] theorem storeResponse_regCount (x : List Byte) : (storeResponse x s).regCount = s.regCount := rfl
@[simp] theorem storeResponse_de (x : List Byte) : (storeResponse x s).de = s.de := rfl
@[simp] theorem storeResponse_busy (x : List Byte) : (storeResponse x s).busy = s.busy := rfl
@[simp] theorem storeResponse_refused (x : List Byte) : (storeResponse x s).refused = s.refused := rfl
@[simp] theorem storeResponse_rxq (x : List Byte) : (storeResponse x s).rxq = s.rxq := rfl
@[simp] theorem storeResponse_txTrace (x : List Byte) : (storeResponse x s).txTrace = s.txTrace := rfl
@[simp] theorem storeResponse_evLog (x : List Byte) : (storeResponse x s).evLog = s.evLog := rfl
@[simp] theorem storeResponse_now (x : List Byte) : (storeResponse x s).now = s.now := rfl
@[simp] theorem storeResponse_params (x : List Byte) : (storeResponse x s).params = s.params := rfl
@[simp] theorem storeResponse_uart (x : List Byte) : (storeResponse x s).uart = s.uart := rfl
@[simp] theorem storeResponse_port (x : List Byte) : (storeResponse x s).port = s.port := rfl
@[simp] theorem storeResponse_activity (x : List Byte) : (storeResponse x s).activity = s.activity := rfl
@[simp] theorem storeResponse_agenda (x : List Byte) : (storeResponse x s).agenda = s.agenda := rfl
@[simp] theorem storeResponse_turnCount (x : List Byte) : (storeResponse x s).turnCount = s.turnCount := rfl
@[simp] theorem storeResponse_freeCount (x : List Byte) :
    (storeResponse x s).freeCount = s.freeCount + 1 := rfl

@[simp] theorem setRes_fsm (r : Res) : (setRes r s).fsm = s.fsm := rfl
@[simp] theorem setRes_prevActive (r : Res) : (setRes r s).prevActive = s.prevActive := rfl
@[simp] theorem setRes_seedPending (r : Res) : (setRes r s).seedPending = s.seedPending := rfl
@[simp] theorem setRes_lastPollMs (r : Res) : (setRes r s).lastPollMs = s.lastPollMs := rfl
@[simp] theorem setRes_closeMs (r : Res) : (setRes r s).closeMs = s.closeMs := rfl
@[simp] theorem setRes_pending (r : Res) : (setRes r s).pending = s.pending := rfl
@[simp] theorem setRes_session (r : Res) : (setRes r s).session = s.session := rfl
@[simp] theorem setRes_lastReading (r : Res) : (setRes r s).lastReading = s.lastReading := rfl
@[simp] theorem setRes_cfg (r : Res) : (setRes r s).cfg = s.cfg := rfl
@[simp] theorem setRes_crcReg (r : Res) : (setRes r s).crcReg = s.crcReg := rfl
@[simp] theorem setRes_txBuf (r : Res) : (setRes r s).txBuf = s.txBuf := rfl
@[simp] theorem setRes_txValid (r : Res) : (setRes r s).txValid = s.txValid := rfl
@[simp] theorem setRes_rxBuf (r : Res) : (setRes r s).rxBuf = s.rxBuf := rfl
@[simp] theorem setRes_rxLen (r : Res) : (setRes r s).rxLen = s.rxLen := rfl
@[simp] theorem setRes_res (r : Res) : (setRes r s).res = r := rfl
@[simp] theorem setRes_regs (r : Res) : (setRes r s).regs = s.regs := rfl
@[simp] theorem setRes_regCount (r : Res) : (setRes r s).regCount = s.regCount := rfl
@[simp] theorem setRes_de (r : Res) : (setRes r s).de = s.de := rfl
@[simp] theorem setRes_busy (r : Res) : (setRes r s).busy = s.busy := rfl
@[simp] theorem setRes_refused (r : Res) : (setRes r s).refused = s.refused := rfl
@[simp] theorem setRes_rxq (r : Res) : (setRes r s).rxq = s.rxq := rfl
@[simp] theorem setRes_txTrace (r : Res) : (setRes r s).txTrace = s.txTrace := rfl
@[simp] theorem setRes_evLog (r : Res) : (setRes r s).evLog = s.evLog := rfl
@[simp] theorem setRes_now (r : Res) : (setRes r s).now = s.now := rfl
@[simp] theorem setRes_params (r : Res) : (setRes r s).params = s.params := rfl
@[simp] theorem setRes_uart (r : Res) : (setRes r s).uart = s.uart := rfl
@[simp] theorem setRes_port (r : Res) : (setRes r s).port = s.port := rfl
@[simp] theorem setRes_activity (r : Res) : (setRes r s).activity = s.activity := rfl
@[simp] theorem setRes_agenda (r : Res) : (setRes r s).agenda = s.agenda := rfl
@[simp] theorem setRes_turnCount (r : Res) : (setRes r s).turnCount = s.turnCount := rfl
@[simp] theorem setRes_freeCount (r : Res) : (setRes r s).freeCount = s.freeCount := rfl

@[simp] theorem raise_fsm (e : ProtocolError) : (raise e s).fsm = s.fsm := rfl
@[simp] theorem raise_prevActive (e : ProtocolError) : (raise e s).prevActive = s.prevActive := rfl
@[simp] theorem raise_seedPending (e : ProtocolError) : (raise e s).seedPending = s.seedPending := rfl
@[simp] theorem raise_lastPollMs (e : ProtocolError) : (raise e s).lastPollMs = s.lastPollMs := rfl
@[simp] theorem raise_closeMs (e : ProtocolError) : (raise e s).closeMs = s.closeMs := rfl
@[simp] theorem raise_pending (e : ProtocolError) : (raise e s).pending = s.pending := rfl
@[simp] theorem raise_session (e : ProtocolError) : (raise e s).session = s.session := rfl
@[simp] theorem raise_lastReading (e : ProtocolError) : (raise e s).lastReading = s.lastReading := rfl
@[simp] theorem raise_cfg (e : ProtocolError) : (raise e s).cfg = s.cfg := rfl
@[simp] theorem raise_crcReg (e : ProtocolError) : (raise e s).crcReg = s.crcReg := rfl
@[simp] theorem raise_txBuf (e : ProtocolError) : (raise e s).txBuf = s.txBuf := rfl
@[simp] theorem raise_txValid (e : ProtocolError) : (raise e s).txValid = s.txValid := rfl
@[simp] theorem raise_rxBuf (e : ProtocolError) : (raise e s).rxBuf = rxBufOf [] s.freeCount := rfl
@[simp] theorem raise_rxLen (e : ProtocolError) : (raise e s).rxLen = 0#7 := rfl
@[simp] theorem raise_res (e : ProtocolError) : (raise e s).res = .error e := rfl
@[simp] theorem raise_regs (e : ProtocolError) : (raise e s).regs = s.regs := rfl
@[simp] theorem raise_regCount (e : ProtocolError) : (raise e s).regCount = s.regCount := rfl
@[simp] theorem raise_de (e : ProtocolError) : (raise e s).de = s.de := rfl
@[simp] theorem raise_busy (e : ProtocolError) : (raise e s).busy = s.busy := rfl
@[simp] theorem raise_refused (e : ProtocolError) : (raise e s).refused = s.refused := rfl
@[simp] theorem raise_rxq (e : ProtocolError) : (raise e s).rxq = s.rxq := rfl
@[simp] theorem raise_txTrace (e : ProtocolError) : (raise e s).txTrace = s.txTrace := rfl
@[simp] theorem raise_evLog (e : ProtocolError) : (raise e s).evLog = s.evLog := rfl
@[simp] theorem raise_now (e : ProtocolError) : (raise e s).now = s.now := rfl
@[simp] theorem raise_params (e : ProtocolError) : (raise e s).params = s.params := rfl
@[simp] theorem raise_uart (e : ProtocolError) : (raise e s).uart = s.uart := rfl
@[simp] theorem raise_port (e : ProtocolError) : (raise e s).port = s.port := rfl
@[simp] theorem raise_activity (e : ProtocolError) : (raise e s).activity = s.activity := rfl
@[simp] theorem raise_agenda (e : ProtocolError) : (raise e s).agenda = s.agenda := rfl
@[simp] theorem raise_turnCount (e : ProtocolError) : (raise e s).turnCount = s.turnCount := rfl
@[simp] theorem raise_freeCount (e : ProtocolError) : (raise e s).freeCount = s.freeCount + 1 := rfl

@[simp] theorem storeRegs_fsm (x : List Word) : (storeRegs x s).fsm = s.fsm := rfl
@[simp] theorem storeRegs_prevActive (x : List Word) : (storeRegs x s).prevActive = s.prevActive := rfl
@[simp] theorem storeRegs_seedPending (x : List Word) : (storeRegs x s).seedPending = s.seedPending := rfl
@[simp] theorem storeRegs_lastPollMs (x : List Word) : (storeRegs x s).lastPollMs = s.lastPollMs := rfl
@[simp] theorem storeRegs_closeMs (x : List Word) : (storeRegs x s).closeMs = s.closeMs := rfl
@[simp] theorem storeRegs_pending (x : List Word) : (storeRegs x s).pending = s.pending := rfl
@[simp] theorem storeRegs_session (x : List Word) : (storeRegs x s).session = s.session := rfl
@[simp] theorem storeRegs_lastReading (x : List Word) : (storeRegs x s).lastReading = s.lastReading := rfl
@[simp] theorem storeRegs_cfg (x : List Word) : (storeRegs x s).cfg = s.cfg := rfl
@[simp] theorem storeRegs_crcReg (x : List Word) : (storeRegs x s).crcReg = s.crcReg := rfl
@[simp] theorem storeRegs_txBuf (x : List Word) : (storeRegs x s).txBuf = s.txBuf := rfl
@[simp] theorem storeRegs_txValid (x : List Word) : (storeRegs x s).txValid = s.txValid := rfl
@[simp] theorem storeRegs_rxBuf (x : List Word) : (storeRegs x s).rxBuf = s.rxBuf := rfl
@[simp] theorem storeRegs_rxLen (x : List Word) : (storeRegs x s).rxLen = s.rxLen := rfl
@[simp] theorem storeRegs_res (x : List Word) : (storeRegs x s).res = s.res := rfl
@[simp] theorem storeRegs_regs (x : List Word) : (storeRegs x s).regs = regsOf x s.freeCount := rfl
@[simp] theorem storeRegs_regCount (x : List Word) : (storeRegs x s).regCount = BitVec.ofNat 6 x.length := rfl
@[simp] theorem storeRegs_de (x : List Word) : (storeRegs x s).de = s.de := rfl
@[simp] theorem storeRegs_busy (x : List Word) : (storeRegs x s).busy = s.busy := rfl
@[simp] theorem storeRegs_refused (x : List Word) : (storeRegs x s).refused = s.refused := rfl
@[simp] theorem storeRegs_rxq (x : List Word) : (storeRegs x s).rxq = s.rxq := rfl
@[simp] theorem storeRegs_txTrace (x : List Word) : (storeRegs x s).txTrace = s.txTrace := rfl
@[simp] theorem storeRegs_evLog (x : List Word) : (storeRegs x s).evLog = s.evLog := rfl
@[simp] theorem storeRegs_now (x : List Word) : (storeRegs x s).now = s.now := rfl
@[simp] theorem storeRegs_params (x : List Word) : (storeRegs x s).params = s.params := rfl
@[simp] theorem storeRegs_uart (x : List Word) : (storeRegs x s).uart = s.uart := rfl
@[simp] theorem storeRegs_port (x : List Word) : (storeRegs x s).port = s.port := rfl
@[simp] theorem storeRegs_activity (x : List Word) : (storeRegs x s).activity = s.activity := rfl
@[simp] theorem storeRegs_agenda (x : List Word) : (storeRegs x s).agenda = s.agenda := rfl
@[simp] theorem storeRegs_turnCount (x : List Word) : (storeRegs x s).turnCount = s.turnCount := rfl
@[simp] theorem storeRegs_freeCount (x : List Word) : (storeRegs x s).freeCount = s.freeCount + 1 := rfl

@[simp] theorem clearRegCount_fsm : (clearRegCount s).fsm = s.fsm := rfl
@[simp] theorem clearRegCount_prevActive : (clearRegCount s).prevActive = s.prevActive := rfl
@[simp] theorem clearRegCount_seedPending : (clearRegCount s).seedPending = s.seedPending := rfl
@[simp] theorem clearRegCount_lastPollMs : (clearRegCount s).lastPollMs = s.lastPollMs := rfl
@[simp] theorem clearRegCount_closeMs : (clearRegCount s).closeMs = s.closeMs := rfl
@[simp] theorem clearRegCount_pending : (clearRegCount s).pending = s.pending := rfl
@[simp] theorem clearRegCount_session : (clearRegCount s).session = s.session := rfl
@[simp] theorem clearRegCount_lastReading : (clearRegCount s).lastReading = s.lastReading := rfl
@[simp] theorem clearRegCount_cfg : (clearRegCount s).cfg = s.cfg := rfl
@[simp] theorem clearRegCount_crcReg : (clearRegCount s).crcReg = s.crcReg := rfl
@[simp] theorem clearRegCount_txBuf : (clearRegCount s).txBuf = s.txBuf := rfl
@[simp] theorem clearRegCount_txValid : (clearRegCount s).txValid = s.txValid := rfl
@[simp] theorem clearRegCount_rxBuf : (clearRegCount s).rxBuf = s.rxBuf := rfl
@[simp] theorem clearRegCount_rxLen : (clearRegCount s).rxLen = s.rxLen := rfl
@[simp] theorem clearRegCount_res : (clearRegCount s).res = s.res := rfl
@[simp] theorem clearRegCount_regs : (clearRegCount s).regs = s.regs := rfl
@[simp] theorem clearRegCount_regCount : (clearRegCount s).regCount = 0#6 := rfl
@[simp] theorem clearRegCount_de : (clearRegCount s).de = s.de := rfl
@[simp] theorem clearRegCount_busy : (clearRegCount s).busy = s.busy := rfl
@[simp] theorem clearRegCount_refused : (clearRegCount s).refused = s.refused := rfl
@[simp] theorem clearRegCount_rxq : (clearRegCount s).rxq = s.rxq := rfl
@[simp] theorem clearRegCount_txTrace : (clearRegCount s).txTrace = s.txTrace := rfl
@[simp] theorem clearRegCount_evLog : (clearRegCount s).evLog = s.evLog := rfl
@[simp] theorem clearRegCount_now : (clearRegCount s).now = s.now := rfl
@[simp] theorem clearRegCount_params : (clearRegCount s).params = s.params := rfl
@[simp] theorem clearRegCount_uart : (clearRegCount s).uart = s.uart := rfl
@[simp] theorem clearRegCount_port : (clearRegCount s).port = s.port := rfl
@[simp] theorem clearRegCount_activity : (clearRegCount s).activity = s.activity := rfl
@[simp] theorem clearRegCount_agenda : (clearRegCount s).agenda = s.agenda := rfl
@[simp] theorem clearRegCount_turnCount : (clearRegCount s).turnCount = s.turnCount := rfl
@[simp] theorem clearRegCount_freeCount : (clearRegCount s).freeCount = s.freeCount := rfl

@[simp] theorem hold_fsm (a : Activity) : (hold a s).fsm = s.fsm := rfl
@[simp] theorem hold_prevActive (a : Activity) : (hold a s).prevActive = s.prevActive := rfl
@[simp] theorem hold_seedPending (a : Activity) : (hold a s).seedPending = s.seedPending := rfl
@[simp] theorem hold_lastPollMs (a : Activity) : (hold a s).lastPollMs = s.lastPollMs := rfl
@[simp] theorem hold_closeMs (a : Activity) : (hold a s).closeMs = s.closeMs := rfl
@[simp] theorem hold_pending (a : Activity) : (hold a s).pending = s.pending := rfl
@[simp] theorem hold_session (a : Activity) : (hold a s).session = s.session := rfl
@[simp] theorem hold_lastReading (a : Activity) : (hold a s).lastReading = s.lastReading := rfl
@[simp] theorem hold_cfg (a : Activity) : (hold a s).cfg = s.cfg := rfl
@[simp] theorem hold_crcReg (a : Activity) : (hold a s).crcReg = s.crcReg := rfl
@[simp] theorem hold_txBuf (a : Activity) : (hold a s).txBuf = s.txBuf := rfl
@[simp] theorem hold_txValid (a : Activity) : (hold a s).txValid = s.txValid := rfl
@[simp] theorem hold_rxBuf (a : Activity) : (hold a s).rxBuf = s.rxBuf := rfl
@[simp] theorem hold_rxLen (a : Activity) : (hold a s).rxLen = s.rxLen := rfl
@[simp] theorem hold_res (a : Activity) : (hold a s).res = s.res := rfl
@[simp] theorem hold_regs (a : Activity) : (hold a s).regs = s.regs := rfl
@[simp] theorem hold_regCount (a : Activity) : (hold a s).regCount = s.regCount := rfl
@[simp] theorem hold_de (a : Activity) : (hold a s).de = s.de := rfl
@[simp] theorem hold_busy (a : Activity) : (hold a s).busy = true := rfl
@[simp] theorem hold_refused (a : Activity) : (hold a s).refused = s.refused := rfl
@[simp] theorem hold_rxq (a : Activity) : (hold a s).rxq = s.rxq := rfl
@[simp] theorem hold_txTrace (a : Activity) : (hold a s).txTrace = s.txTrace := rfl
@[simp] theorem hold_evLog (a : Activity) : (hold a s).evLog = s.evLog := rfl
@[simp] theorem hold_now (a : Activity) : (hold a s).now = s.now := rfl
@[simp] theorem hold_params (a : Activity) : (hold a s).params = s.params := rfl
@[simp] theorem hold_uart (a : Activity) : (hold a s).uart = s.uart := rfl
@[simp] theorem hold_port (a : Activity) : (hold a s).port = s.port := rfl
@[simp] theorem hold_activity (a : Activity) : (hold a s).activity = a := rfl
@[simp] theorem hold_agenda (a : Activity) : (hold a s).agenda = s.agenda := rfl
@[simp] theorem hold_turnCount (a : Activity) : (hold a s).turnCount = s.turnCount := rfl
@[simp] theorem hold_freeCount (a : Activity) : (hold a s).freeCount = s.freeCount := rfl

@[simp] theorem endCommand_fsm : (endCommand s).fsm = s.fsm := rfl
@[simp] theorem endCommand_prevActive : (endCommand s).prevActive = s.prevActive := rfl
@[simp] theorem endCommand_seedPending : (endCommand s).seedPending = s.seedPending := rfl
@[simp] theorem endCommand_lastPollMs : (endCommand s).lastPollMs = s.lastPollMs := rfl
@[simp] theorem endCommand_closeMs : (endCommand s).closeMs = s.closeMs := rfl
@[simp] theorem endCommand_pending : (endCommand s).pending = s.pending := rfl
@[simp] theorem endCommand_session : (endCommand s).session = s.session := rfl
@[simp] theorem endCommand_lastReading : (endCommand s).lastReading = s.lastReading := rfl
@[simp] theorem endCommand_cfg : (endCommand s).cfg = s.cfg := rfl
@[simp] theorem endCommand_crcReg : (endCommand s).crcReg = s.crcReg := rfl
@[simp] theorem endCommand_txBuf : (endCommand s).txBuf = s.txBuf := rfl
@[simp] theorem endCommand_txValid : (endCommand s).txValid = s.txValid := rfl
@[simp] theorem endCommand_rxBuf : (endCommand s).rxBuf = s.rxBuf := rfl
@[simp] theorem endCommand_rxLen : (endCommand s).rxLen = s.rxLen := rfl
@[simp] theorem endCommand_res : (endCommand s).res = s.res := rfl
@[simp] theorem endCommand_regs : (endCommand s).regs = s.regs := rfl
@[simp] theorem endCommand_regCount : (endCommand s).regCount = s.regCount := rfl
@[simp] theorem endCommand_de : (endCommand s).de = s.de := rfl
@[simp] theorem endCommand_busy : (endCommand s).busy = false := rfl
@[simp] theorem endCommand_refused : (endCommand s).refused = s.refused := rfl
@[simp] theorem endCommand_rxq : (endCommand s).rxq = s.rxq := rfl
@[simp] theorem endCommand_txTrace : (endCommand s).txTrace = s.txTrace := rfl
@[simp] theorem endCommand_evLog : (endCommand s).evLog = s.evLog := rfl
@[simp] theorem endCommand_now : (endCommand s).now = s.now := rfl
@[simp] theorem endCommand_params : (endCommand s).params = s.params := rfl
@[simp] theorem endCommand_uart : (endCommand s).uart = s.uart := rfl
@[simp] theorem endCommand_port : (endCommand s).port = s.port := rfl
@[simp] theorem endCommand_activity : (endCommand s).activity = .none := rfl
@[simp] theorem endCommand_agenda : (endCommand s).agenda = s.agenda := rfl
@[simp] theorem endCommand_turnCount : (endCommand s).turnCount = s.turnCount := rfl
@[simp] theorem endCommand_freeCount : (endCommand s).freeCount = s.freeCount := rfl

@[simp] theorem deliverBytes_fsm (x : List Byte) : (deliverBytes x s).fsm = s.fsm := rfl
@[simp] theorem deliverBytes_prevActive (x : List Byte) : (deliverBytes x s).prevActive = s.prevActive := rfl
@[simp] theorem deliverBytes_seedPending (x : List Byte) :
    (deliverBytes x s).seedPending = s.seedPending := rfl
@[simp] theorem deliverBytes_lastPollMs (x : List Byte) : (deliverBytes x s).lastPollMs = s.lastPollMs := rfl
@[simp] theorem deliverBytes_closeMs (x : List Byte) : (deliverBytes x s).closeMs = s.closeMs := rfl
@[simp] theorem deliverBytes_pending (x : List Byte) : (deliverBytes x s).pending = s.pending := rfl
@[simp] theorem deliverBytes_session (x : List Byte) : (deliverBytes x s).session = s.session := rfl
@[simp] theorem deliverBytes_lastReading (x : List Byte) :
    (deliverBytes x s).lastReading = s.lastReading := rfl
@[simp] theorem deliverBytes_cfg (x : List Byte) : (deliverBytes x s).cfg = s.cfg := rfl
@[simp] theorem deliverBytes_crcReg (x : List Byte) : (deliverBytes x s).crcReg = s.crcReg := rfl
@[simp] theorem deliverBytes_txBuf (x : List Byte) : (deliverBytes x s).txBuf = s.txBuf := rfl
@[simp] theorem deliverBytes_txValid (x : List Byte) : (deliverBytes x s).txValid = s.txValid := rfl
@[simp] theorem deliverBytes_rxBuf (x : List Byte) : (deliverBytes x s).rxBuf = s.rxBuf := rfl
@[simp] theorem deliverBytes_rxLen (x : List Byte) : (deliverBytes x s).rxLen = s.rxLen := rfl
@[simp] theorem deliverBytes_res (x : List Byte) : (deliverBytes x s).res = s.res := rfl
@[simp] theorem deliverBytes_regs (x : List Byte) : (deliverBytes x s).regs = s.regs := rfl
@[simp] theorem deliverBytes_regCount (x : List Byte) : (deliverBytes x s).regCount = s.regCount := rfl
@[simp] theorem deliverBytes_de (x : List Byte) : (deliverBytes x s).de = s.de := rfl
@[simp] theorem deliverBytes_busy (x : List Byte) : (deliverBytes x s).busy = s.busy := rfl
@[simp] theorem deliverBytes_refused (x : List Byte) : (deliverBytes x s).refused = s.refused := rfl
@[simp] theorem deliverBytes_rxq (x : List Byte) :
    (deliverBytes x s).rxq = appendRx s.params.rxCapacity s.rxq x := rfl
@[simp] theorem deliverBytes_txTrace (x : List Byte) : (deliverBytes x s).txTrace = s.txTrace := rfl
@[simp] theorem deliverBytes_evLog (x : List Byte) : (deliverBytes x s).evLog = s.evLog := rfl
@[simp] theorem deliverBytes_now (x : List Byte) : (deliverBytes x s).now = s.now := rfl
@[simp] theorem deliverBytes_params (x : List Byte) : (deliverBytes x s).params = s.params := rfl
@[simp] theorem deliverBytes_uart (x : List Byte) : (deliverBytes x s).uart = s.uart := rfl
@[simp] theorem deliverBytes_port (x : List Byte) : (deliverBytes x s).port = s.port := rfl
@[simp] theorem deliverBytes_activity (x : List Byte) : (deliverBytes x s).activity = s.activity := rfl
@[simp] theorem deliverBytes_agenda (x : List Byte) : (deliverBytes x s).agenda = s.agenda := rfl
@[simp] theorem deliverBytes_turnCount (x : List Byte) : (deliverBytes x s).turnCount = s.turnCount := rfl
@[simp] theorem deliverBytes_freeCount (x : List Byte) : (deliverBytes x s).freeCount = s.freeCount := rfl

@[simp] theorem drainUart_fsm (n : Nat) : (drainUart n s).fsm = s.fsm := rfl
@[simp] theorem drainUart_prevActive (n : Nat) : (drainUart n s).prevActive = s.prevActive := rfl
@[simp] theorem drainUart_seedPending (n : Nat) : (drainUart n s).seedPending = s.seedPending := rfl
@[simp] theorem drainUart_lastPollMs (n : Nat) : (drainUart n s).lastPollMs = s.lastPollMs := rfl
@[simp] theorem drainUart_closeMs (n : Nat) : (drainUart n s).closeMs = s.closeMs := rfl
@[simp] theorem drainUart_pending (n : Nat) : (drainUart n s).pending = s.pending := rfl
@[simp] theorem drainUart_session (n : Nat) : (drainUart n s).session = s.session := rfl
@[simp] theorem drainUart_lastReading (n : Nat) : (drainUart n s).lastReading = s.lastReading := rfl
@[simp] theorem drainUart_cfg (n : Nat) : (drainUart n s).cfg = s.cfg := rfl
@[simp] theorem drainUart_crcReg (n : Nat) : (drainUart n s).crcReg = s.crcReg := rfl
@[simp] theorem drainUart_txBuf (n : Nat) : (drainUart n s).txBuf = s.txBuf := rfl
@[simp] theorem drainUart_txValid (n : Nat) : (drainUart n s).txValid = s.txValid := rfl
@[simp] theorem drainUart_rxBuf (n : Nat) : (drainUart n s).rxBuf = s.rxBuf := rfl
@[simp] theorem drainUart_rxLen (n : Nat) : (drainUart n s).rxLen = s.rxLen := rfl
@[simp] theorem drainUart_res (n : Nat) : (drainUart n s).res = s.res := rfl
@[simp] theorem drainUart_regs (n : Nat) : (drainUart n s).regs = s.regs := rfl
@[simp] theorem drainUart_regCount (n : Nat) : (drainUart n s).regCount = s.regCount := rfl
@[simp] theorem drainUart_de (n : Nat) : (drainUart n s).de = s.de := rfl
@[simp] theorem drainUart_busy (n : Nat) : (drainUart n s).busy = s.busy := rfl
@[simp] theorem drainUart_refused (n : Nat) : (drainUart n s).refused = s.refused := rfl
@[simp] theorem drainUart_rxq (n : Nat) : (drainUart n s).rxq = s.rxq := rfl
@[simp] theorem drainUart_txTrace (n : Nat) : (drainUart n s).txTrace = s.txTrace := rfl
@[simp] theorem drainUart_evLog (n : Nat) : (drainUart n s).evLog = s.evLog := rfl
@[simp] theorem drainUart_now (n : Nat) : (drainUart n s).now = s.now := rfl
@[simp] theorem drainUart_params (n : Nat) : (drainUart n s).params = s.params := rfl
@[simp] theorem drainUart_uart (n : Nat) : (drainUart n s).uart = s.uart.drop n := rfl
@[simp] theorem drainUart_port (n : Nat) : (drainUart n s).port = s.port := rfl
@[simp] theorem drainUart_activity (n : Nat) : (drainUart n s).activity = s.activity := rfl
@[simp] theorem drainUart_agenda (n : Nat) : (drainUart n s).agenda = s.agenda := rfl
@[simp] theorem drainUart_turnCount (n : Nat) : (drainUart n s).turnCount = s.turnCount := rfl
@[simp] theorem drainUart_freeCount (n : Nat) : (drainUart n s).freeCount = s.freeCount := rfl

@[simp] theorem tickClock_fsm : (tickClock s).fsm = s.fsm := rfl
@[simp] theorem tickClock_prevActive : (tickClock s).prevActive = s.prevActive := rfl
@[simp] theorem tickClock_seedPending : (tickClock s).seedPending = s.seedPending := rfl
@[simp] theorem tickClock_lastPollMs : (tickClock s).lastPollMs = s.lastPollMs := rfl
@[simp] theorem tickClock_closeMs : (tickClock s).closeMs = s.closeMs := rfl
@[simp] theorem tickClock_pending : (tickClock s).pending = s.pending := rfl
@[simp] theorem tickClock_session : (tickClock s).session = s.session := rfl
@[simp] theorem tickClock_lastReading : (tickClock s).lastReading = s.lastReading := rfl
@[simp] theorem tickClock_cfg : (tickClock s).cfg = s.cfg := rfl
@[simp] theorem tickClock_crcReg : (tickClock s).crcReg = s.crcReg := rfl
@[simp] theorem tickClock_txBuf : (tickClock s).txBuf = s.txBuf := rfl
@[simp] theorem tickClock_txValid : (tickClock s).txValid = s.txValid := rfl
@[simp] theorem tickClock_rxBuf : (tickClock s).rxBuf = s.rxBuf := rfl
@[simp] theorem tickClock_rxLen : (tickClock s).rxLen = s.rxLen := rfl
@[simp] theorem tickClock_res : (tickClock s).res = s.res := rfl
@[simp] theorem tickClock_regs : (tickClock s).regs = s.regs := rfl
@[simp] theorem tickClock_regCount : (tickClock s).regCount = s.regCount := rfl
@[simp] theorem tickClock_de : (tickClock s).de = s.de := rfl
@[simp] theorem tickClock_busy : (tickClock s).busy = s.busy := rfl
@[simp] theorem tickClock_refused : (tickClock s).refused = s.refused := rfl
@[simp] theorem tickClock_rxq : (tickClock s).rxq = s.rxq := rfl
@[simp] theorem tickClock_txTrace : (tickClock s).txTrace = s.txTrace := rfl
@[simp] theorem tickClock_evLog : (tickClock s).evLog = s.evLog := rfl
@[simp] theorem tickClock_now : (tickClock s).now = s.now + 1#32 := rfl
@[simp] theorem tickClock_params : (tickClock s).params = s.params := rfl
@[simp] theorem tickClock_uart : (tickClock s).uart = s.uart := rfl
@[simp] theorem tickClock_port : (tickClock s).port = s.port := rfl
@[simp] theorem tickClock_activity : (tickClock s).activity = s.activity := rfl
@[simp] theorem tickClock_agenda : (tickClock s).agenda = s.agenda := rfl
@[simp] theorem tickClock_turnCount : (tickClock s).turnCount = s.turnCount := rfl
@[simp] theorem tickClock_freeCount : (tickClock s).freeCount = s.freeCount := rfl

@[simp] theorem presentCommand_fsm (c : Command) : (presentCommand c s).fsm = s.fsm := rfl
@[simp] theorem presentCommand_prevActive (c : Command) :
    (presentCommand c s).prevActive = s.prevActive := rfl
@[simp] theorem presentCommand_seedPending (c : Command) :
    (presentCommand c s).seedPending = s.seedPending := rfl
@[simp] theorem presentCommand_lastPollMs (c : Command) :
    (presentCommand c s).lastPollMs = s.lastPollMs := rfl
@[simp] theorem presentCommand_closeMs (c : Command) : (presentCommand c s).closeMs = s.closeMs := rfl
@[simp] theorem presentCommand_pending (c : Command) : (presentCommand c s).pending = s.pending := rfl
@[simp] theorem presentCommand_session (c : Command) : (presentCommand c s).session = s.session := rfl
@[simp] theorem presentCommand_lastReading (c : Command) :
    (presentCommand c s).lastReading = s.lastReading := rfl
@[simp] theorem presentCommand_cfg (c : Command) : (presentCommand c s).cfg = s.cfg := rfl
@[simp] theorem presentCommand_crcReg (c : Command) : (presentCommand c s).crcReg = s.crcReg := rfl
@[simp] theorem presentCommand_txBuf (c : Command) : (presentCommand c s).txBuf = s.txBuf := rfl
@[simp] theorem presentCommand_txValid (c : Command) : (presentCommand c s).txValid = s.txValid := rfl
@[simp] theorem presentCommand_rxBuf (c : Command) : (presentCommand c s).rxBuf = s.rxBuf := rfl
@[simp] theorem presentCommand_rxLen (c : Command) : (presentCommand c s).rxLen = s.rxLen := rfl
@[simp] theorem presentCommand_res (c : Command) : (presentCommand c s).res = s.res := rfl
@[simp] theorem presentCommand_regs (c : Command) : (presentCommand c s).regs = s.regs := rfl
@[simp] theorem presentCommand_regCount (c : Command) : (presentCommand c s).regCount = s.regCount := rfl
@[simp] theorem presentCommand_de (c : Command) : (presentCommand c s).de = s.de := rfl
@[simp] theorem presentCommand_busy (c : Command) : (presentCommand c s).busy = s.busy := rfl
@[simp] theorem presentCommand_refused (c : Command) : (presentCommand c s).refused = s.refused := rfl
@[simp] theorem presentCommand_rxq (c : Command) : (presentCommand c s).rxq = s.rxq := rfl
@[simp] theorem presentCommand_txTrace (c : Command) : (presentCommand c s).txTrace = s.txTrace := rfl
@[simp] theorem presentCommand_evLog (c : Command) : (presentCommand c s).evLog = s.evLog := rfl
@[simp] theorem presentCommand_now (c : Command) : (presentCommand c s).now = s.now := rfl
@[simp] theorem presentCommand_params (c : Command) : (presentCommand c s).params = s.params := rfl
@[simp] theorem presentCommand_uart (c : Command) : (presentCommand c s).uart = s.uart := rfl
@[simp] theorem presentCommand_port (c : Command) : (presentCommand c s).port = s.port ++ [c] := rfl
@[simp] theorem presentCommand_activity (c : Command) : (presentCommand c s).activity = s.activity := rfl
@[simp] theorem presentCommand_agenda (c : Command) : (presentCommand c s).agenda = s.agenda := rfl
@[simp] theorem presentCommand_turnCount (c : Command) : (presentCommand c s).turnCount = s.turnCount := rfl
@[simp] theorem presentCommand_freeCount (c : Command) : (presentCommand c s).freeCount = s.freeCount := rfl

@[simp] theorem takeRx_fsm (w : Window) : (takeRx w s).fsm = s.fsm := rfl
@[simp] theorem takeRx_prevActive (w : Window) : (takeRx w s).prevActive = s.prevActive := rfl
@[simp] theorem takeRx_seedPending (w : Window) : (takeRx w s).seedPending = s.seedPending := rfl
@[simp] theorem takeRx_lastPollMs (w : Window) : (takeRx w s).lastPollMs = s.lastPollMs := rfl
@[simp] theorem takeRx_closeMs (w : Window) : (takeRx w s).closeMs = s.closeMs := rfl
@[simp] theorem takeRx_pending (w : Window) : (takeRx w s).pending = s.pending := rfl
@[simp] theorem takeRx_session (w : Window) : (takeRx w s).session = s.session := rfl
@[simp] theorem takeRx_lastReading (w : Window) : (takeRx w s).lastReading = s.lastReading := rfl
@[simp] theorem takeRx_cfg (w : Window) : (takeRx w s).cfg = s.cfg := rfl
@[simp] theorem takeRx_crcReg (w : Window) : (takeRx w s).crcReg = s.crcReg := rfl
@[simp] theorem takeRx_txBuf (w : Window) : (takeRx w s).txBuf = s.txBuf := rfl
@[simp] theorem takeRx_txValid (w : Window) : (takeRx w s).txValid = s.txValid := rfl
@[simp] theorem takeRx_rxBuf (w : Window) : (takeRx w s).rxBuf = s.rxBuf := rfl
@[simp] theorem takeRx_rxLen (w : Window) : (takeRx w s).rxLen = s.rxLen := rfl
@[simp] theorem takeRx_res (w : Window) : (takeRx w s).res = s.res := rfl
@[simp] theorem takeRx_regs (w : Window) : (takeRx w s).regs = s.regs := rfl
@[simp] theorem takeRx_regCount (w : Window) : (takeRx w s).regCount = s.regCount := rfl
@[simp] theorem takeRx_de (w : Window) : (takeRx w s).de = s.de := rfl
@[simp] theorem takeRx_busy (w : Window) : (takeRx w s).busy = s.busy := rfl
@[simp] theorem takeRx_refused (w : Window) : (takeRx w s).refused = s.refused := rfl
@[simp] theorem takeRx_rxq (w : Window) : (takeRx w s).rxq = s.rxq.drop (w.need - w.got.length) := rfl
@[simp] theorem takeRx_txTrace (w : Window) : (takeRx w s).txTrace = s.txTrace := rfl
@[simp] theorem takeRx_evLog (w : Window) : (takeRx w s).evLog = s.evLog := rfl
@[simp] theorem takeRx_now (w : Window) : (takeRx w s).now = s.now := rfl
@[simp] theorem takeRx_params (w : Window) : (takeRx w s).params = s.params := rfl
@[simp] theorem takeRx_uart (w : Window) : (takeRx w s).uart = s.uart := rfl
@[simp] theorem takeRx_port (w : Window) : (takeRx w s).port = s.port := rfl
@[simp] theorem takeRx_activity (w : Window) : (takeRx w s).activity = s.activity := rfl
@[simp] theorem takeRx_agenda (w : Window) : (takeRx w s).agenda = s.agenda := rfl
@[simp] theorem takeRx_turnCount (w : Window) : (takeRx w s).turnCount = s.turnCount := rfl
@[simp] theorem takeRx_freeCount (w : Window) : (takeRx w s).freeCount = s.freeCount := rfl

@[simp] theorem withAgenda_fsm (ts : List Turn) : (withAgenda ts s).fsm = s.fsm := rfl
@[simp] theorem withAgenda_prevActive (ts : List Turn) : (withAgenda ts s).prevActive = s.prevActive := rfl
@[simp] theorem withAgenda_seedPending (ts : List Turn) : (withAgenda ts s).seedPending = s.seedPending := rfl
@[simp] theorem withAgenda_lastPollMs (ts : List Turn) : (withAgenda ts s).lastPollMs = s.lastPollMs := rfl
@[simp] theorem withAgenda_closeMs (ts : List Turn) : (withAgenda ts s).closeMs = s.closeMs := rfl
@[simp] theorem withAgenda_pending (ts : List Turn) : (withAgenda ts s).pending = s.pending := rfl
@[simp] theorem withAgenda_session (ts : List Turn) : (withAgenda ts s).session = s.session := rfl
@[simp] theorem withAgenda_lastReading (ts : List Turn) : (withAgenda ts s).lastReading = s.lastReading := rfl
@[simp] theorem withAgenda_cfg (ts : List Turn) : (withAgenda ts s).cfg = s.cfg := rfl
@[simp] theorem withAgenda_crcReg (ts : List Turn) : (withAgenda ts s).crcReg = s.crcReg := rfl
@[simp] theorem withAgenda_txBuf (ts : List Turn) : (withAgenda ts s).txBuf = s.txBuf := rfl
@[simp] theorem withAgenda_txValid (ts : List Turn) : (withAgenda ts s).txValid = s.txValid := rfl
@[simp] theorem withAgenda_rxBuf (ts : List Turn) : (withAgenda ts s).rxBuf = s.rxBuf := rfl
@[simp] theorem withAgenda_rxLen (ts : List Turn) : (withAgenda ts s).rxLen = s.rxLen := rfl
@[simp] theorem withAgenda_res (ts : List Turn) : (withAgenda ts s).res = s.res := rfl
@[simp] theorem withAgenda_regs (ts : List Turn) : (withAgenda ts s).regs = s.regs := rfl
@[simp] theorem withAgenda_regCount (ts : List Turn) : (withAgenda ts s).regCount = s.regCount := rfl
@[simp] theorem withAgenda_de (ts : List Turn) : (withAgenda ts s).de = s.de := rfl
@[simp] theorem withAgenda_busy (ts : List Turn) : (withAgenda ts s).busy = s.busy := rfl
@[simp] theorem withAgenda_refused (ts : List Turn) : (withAgenda ts s).refused = s.refused := rfl
@[simp] theorem withAgenda_rxq (ts : List Turn) : (withAgenda ts s).rxq = s.rxq := rfl
@[simp] theorem withAgenda_txTrace (ts : List Turn) : (withAgenda ts s).txTrace = s.txTrace := rfl
@[simp] theorem withAgenda_evLog (ts : List Turn) : (withAgenda ts s).evLog = s.evLog := rfl
@[simp] theorem withAgenda_now (ts : List Turn) : (withAgenda ts s).now = s.now := rfl
@[simp] theorem withAgenda_params (ts : List Turn) : (withAgenda ts s).params = s.params := rfl
@[simp] theorem withAgenda_uart (ts : List Turn) : (withAgenda ts s).uart = s.uart := rfl
@[simp] theorem withAgenda_port (ts : List Turn) : (withAgenda ts s).port = s.port := rfl
@[simp] theorem withAgenda_activity (ts : List Turn) : (withAgenda ts s).activity = s.activity := rfl
@[simp] theorem withAgenda_agenda (ts : List Turn) : (withAgenda ts s).agenda = ts := rfl
@[simp] theorem withAgenda_turnCount (ts : List Turn) : (withAgenda ts s).turnCount = s.turnCount := rfl
@[simp] theorem withAgenda_freeCount (ts : List Turn) : (withAgenda ts s).freeCount = s.freeCount := rfl

@[simp] theorem takeTurn_fsm : (takeTurn s).fsm = s.fsm := rfl
@[simp] theorem takeTurn_prevActive : (takeTurn s).prevActive = s.prevActive := rfl
@[simp] theorem takeTurn_seedPending : (takeTurn s).seedPending = s.seedPending := rfl
@[simp] theorem takeTurn_lastPollMs : (takeTurn s).lastPollMs = s.lastPollMs := rfl
@[simp] theorem takeTurn_closeMs : (takeTurn s).closeMs = s.closeMs := rfl
@[simp] theorem takeTurn_pending : (takeTurn s).pending = s.pending := rfl
@[simp] theorem takeTurn_session : (takeTurn s).session = s.session := rfl
@[simp] theorem takeTurn_lastReading : (takeTurn s).lastReading = s.lastReading := rfl
@[simp] theorem takeTurn_cfg : (takeTurn s).cfg = s.cfg := rfl
@[simp] theorem takeTurn_crcReg : (takeTurn s).crcReg = s.crcReg := rfl
@[simp] theorem takeTurn_txBuf : (takeTurn s).txBuf = s.txBuf := rfl
@[simp] theorem takeTurn_txValid : (takeTurn s).txValid = s.txValid := rfl
@[simp] theorem takeTurn_rxBuf : (takeTurn s).rxBuf = s.rxBuf := rfl
@[simp] theorem takeTurn_rxLen : (takeTurn s).rxLen = s.rxLen := rfl
@[simp] theorem takeTurn_res : (takeTurn s).res = s.res := rfl
@[simp] theorem takeTurn_regs : (takeTurn s).regs = s.regs := rfl
@[simp] theorem takeTurn_regCount : (takeTurn s).regCount = s.regCount := rfl
@[simp] theorem takeTurn_de : (takeTurn s).de = s.de := rfl
@[simp] theorem takeTurn_busy : (takeTurn s).busy = s.busy := rfl
@[simp] theorem takeTurn_refused : (takeTurn s).refused = s.refused := rfl
@[simp] theorem takeTurn_rxq : (takeTurn s).rxq = s.rxq := rfl
@[simp] theorem takeTurn_txTrace : (takeTurn s).txTrace = s.txTrace := rfl
@[simp] theorem takeTurn_evLog : (takeTurn s).evLog = s.evLog := rfl
@[simp] theorem takeTurn_now : (takeTurn s).now = s.now := rfl
@[simp] theorem takeTurn_params : (takeTurn s).params = s.params := rfl
@[simp] theorem takeTurn_uart : (takeTurn s).uart = s.uart := rfl
@[simp] theorem takeTurn_port : (takeTurn s).port = s.port := rfl
@[simp] theorem takeTurn_activity : (takeTurn s).activity = s.activity := rfl
@[simp] theorem takeTurn_agenda : (takeTurn s).agenda = s.agenda.tail := rfl
@[simp] theorem takeTurn_turnCount : (takeTurn s).turnCount = s.turnCount + 1 := rfl
@[simp] theorem takeTurn_freeCount : (takeTurn s).freeCount = s.freeCount := rfl

@[simp] theorem startSend_fsm (x : Sender) (f : List Byte) : (startSend x f s).fsm = s.fsm := rfl
@[simp] theorem startSend_prevActive (x : Sender) (f : List Byte) :
    (startSend x f s).prevActive = s.prevActive := rfl
@[simp] theorem startSend_seedPending (x : Sender) (f : List Byte) :
    (startSend x f s).seedPending = s.seedPending := rfl
@[simp] theorem startSend_lastPollMs (x : Sender) (f : List Byte) :
    (startSend x f s).lastPollMs = s.lastPollMs := rfl
@[simp] theorem startSend_closeMs (x : Sender) (f : List Byte) : (startSend x f s).closeMs = s.closeMs := rfl
@[simp] theorem startSend_pending (x : Sender) (f : List Byte) : (startSend x f s).pending = s.pending := rfl
@[simp] theorem startSend_session (x : Sender) (f : List Byte) : (startSend x f s).session = s.session := rfl
@[simp] theorem startSend_lastReading (x : Sender) (f : List Byte) :
    (startSend x f s).lastReading = s.lastReading := rfl
@[simp] theorem startSend_cfg (x : Sender) (f : List Byte) : (startSend x f s).cfg = s.cfg := rfl
@[simp] theorem startSend_crcReg (x : Sender) (f : List Byte) : (startSend x f s).crcReg = s.crcReg := rfl
@[simp] theorem startSend_txBuf (x : Sender) (f : List Byte) : (startSend x f s).txBuf = s.txBuf := rfl
@[simp] theorem startSend_txValid (x : Sender) (f : List Byte) : (startSend x f s).txValid = s.txValid := rfl
@[simp] theorem startSend_rxBuf (x : Sender) (f : List Byte) : (startSend x f s).rxBuf = s.rxBuf := rfl
@[simp] theorem startSend_rxLen (x : Sender) (f : List Byte) : (startSend x f s).rxLen = s.rxLen := rfl
@[simp] theorem startSend_res (x : Sender) (f : List Byte) : (startSend x f s).res = s.res := rfl
@[simp] theorem startSend_regs (x : Sender) (f : List Byte) : (startSend x f s).regs = s.regs := rfl
@[simp] theorem startSend_regCount (x : Sender) (f : List Byte) :
    (startSend x f s).regCount = s.regCount := rfl
@[simp] theorem startSend_de (x : Sender) (f : List Byte) : (startSend x f s).de = true := rfl
@[simp] theorem startSend_busy (x : Sender) (f : List Byte) : (startSend x f s).busy = true := rfl
@[simp] theorem startSend_refused (x : Sender) (f : List Byte) : (startSend x f s).refused = s.refused := rfl
@[simp] theorem startSend_rxq (x : Sender) (f : List Byte) : (startSend x f s).rxq = [] := rfl
@[simp] theorem startSend_txTrace (x : Sender) (f : List Byte) :
    (startSend x f s).txTrace = s.txTrace ++ f.map (fun b => (b, true)) := rfl
@[simp] theorem startSend_evLog (x : Sender) (f : List Byte) : (startSend x f s).evLog = s.evLog := rfl
@[simp] theorem startSend_now (x : Sender) (f : List Byte) : (startSend x f s).now = s.now := rfl
@[simp] theorem startSend_params (x : Sender) (f : List Byte) : (startSend x f s).params = s.params := rfl
@[simp] theorem startSend_uart (x : Sender) (f : List Byte) : (startSend x f s).uart = s.uart ++ f := rfl
@[simp] theorem startSend_port (x : Sender) (f : List Byte) : (startSend x f s).port = s.port := rfl
@[simp] theorem startSend_activity (x : Sender) (f : List Byte) :
    (startSend x f s).activity = .sending x := rfl
@[simp] theorem startSend_agenda (x : Sender) (f : List Byte) : (startSend x f s).agenda = s.agenda := rfl
@[simp] theorem startSend_turnCount (x : Sender) (f : List Byte) :
    (startSend x f s).turnCount = s.turnCount := rfl
@[simp] theorem startSend_freeCount (x : Sender) (f : List Byte) :
    (startSend x f s).freeCount = s.freeCount := rfl

@[simp] theorem startOkWith_fsm (c : CardId) (p : Plate) : (startOkWith c p s).fsm = .sessionActive := rfl
@[simp] theorem startOkWith_prevActive (c : CardId) (p : Plate) :
    (startOkWith c p s).prevActive = false := rfl
@[simp] theorem startOkWith_seedPending (c : CardId) (p : Plate) :
    (startOkWith c p s).seedPending = true := rfl
@[simp] theorem startOkWith_lastPollMs (c : CardId) (p : Plate) :
    (startOkWith c p s).lastPollMs = s.lastPollMs := rfl
@[simp] theorem startOkWith_closeMs (c : CardId) (p : Plate) : (startOkWith c p s).closeMs = s.closeMs := rfl
@[simp] theorem startOkWith_pending (c : CardId) (p : Plate) : (startOkWith c p s).pending = none := rfl
@[simp] theorem startOkWith_session (c : CardId) (p : Plate) :
    (startOkWith c p s).session = { active := true, driverId := some c, plate := some p, lastCl := 0#32 } := rfl
@[simp] theorem startOkWith_lastReading (c : CardId) (p : Plate) :
    (startOkWith c p s).lastReading = none := rfl
@[simp] theorem startOkWith_cfg (c : CardId) (p : Plate) : (startOkWith c p s).cfg = s.cfg := rfl
@[simp] theorem startOkWith_crcReg (c : CardId) (p : Plate) : (startOkWith c p s).crcReg = s.crcReg := rfl
@[simp] theorem startOkWith_txBuf (c : CardId) (p : Plate) : (startOkWith c p s).txBuf = s.txBuf := rfl
@[simp] theorem startOkWith_txValid (c : CardId) (p : Plate) : (startOkWith c p s).txValid = s.txValid := rfl
@[simp] theorem startOkWith_rxBuf (c : CardId) (p : Plate) : (startOkWith c p s).rxBuf = s.rxBuf := rfl
@[simp] theorem startOkWith_rxLen (c : CardId) (p : Plate) : (startOkWith c p s).rxLen = s.rxLen := rfl
@[simp] theorem startOkWith_res (c : CardId) (p : Plate) : (startOkWith c p s).res = s.res := rfl
@[simp] theorem startOkWith_regs (c : CardId) (p : Plate) : (startOkWith c p s).regs = s.regs := rfl
@[simp] theorem startOkWith_regCount (c : CardId) (p : Plate) :
    (startOkWith c p s).regCount = s.regCount := rfl
@[simp] theorem startOkWith_de (c : CardId) (p : Plate) : (startOkWith c p s).de = s.de := rfl
@[simp] theorem startOkWith_busy (c : CardId) (p : Plate) : (startOkWith c p s).busy = s.busy := rfl
@[simp] theorem startOkWith_refused (c : CardId) (p : Plate) : (startOkWith c p s).refused = s.refused := rfl
@[simp] theorem startOkWith_rxq (c : CardId) (p : Plate) : (startOkWith c p s).rxq = s.rxq := rfl
@[simp] theorem startOkWith_txTrace (c : CardId) (p : Plate) : (startOkWith c p s).txTrace = s.txTrace := rfl
@[simp] theorem startOkWith_evLog (c : CardId) (p : Plate) :
    (startOkWith c p s).evLog = s.evLog ++ [.started p] := rfl
@[simp] theorem startOkWith_now (c : CardId) (p : Plate) : (startOkWith c p s).now = s.now := rfl
@[simp] theorem startOkWith_params (c : CardId) (p : Plate) : (startOkWith c p s).params = s.params := rfl
@[simp] theorem startOkWith_uart (c : CardId) (p : Plate) : (startOkWith c p s).uart = s.uart := rfl
@[simp] theorem startOkWith_port (c : CardId) (p : Plate) : (startOkWith c p s).port = s.port := rfl
@[simp] theorem startOkWith_activity (c : CardId) (p : Plate) :
    (startOkWith c p s).activity = s.activity := rfl
@[simp] theorem startOkWith_agenda (c : CardId) (p : Plate) : (startOkWith c p s).agenda = s.agenda := rfl
@[simp] theorem startOkWith_turnCount (c : CardId) (p : Plate) :
    (startOkWith c p s).turnCount = s.turnCount := rfl
@[simp] theorem startOkWith_freeCount (c : CardId) (p : Plate) :
    (startOkWith c p s).freeCount = s.freeCount := rfl

@[simp] theorem startFail_fsm (e : ProtocolError) : (startFail e s).fsm = .idle := rfl
@[simp] theorem startFail_prevActive (e : ProtocolError) : (startFail e s).prevActive = s.prevActive := rfl
@[simp] theorem startFail_seedPending (e : ProtocolError) : (startFail e s).seedPending = s.seedPending := rfl
@[simp] theorem startFail_lastPollMs (e : ProtocolError) : (startFail e s).lastPollMs = s.lastPollMs := rfl
@[simp] theorem startFail_closeMs (e : ProtocolError) : (startFail e s).closeMs = s.closeMs := rfl
@[simp] theorem startFail_pending (e : ProtocolError) : (startFail e s).pending = none := rfl
@[simp] theorem startFail_session (e : ProtocolError) : (startFail e s).session = s.session := rfl
@[simp] theorem startFail_lastReading (e : ProtocolError) : (startFail e s).lastReading = s.lastReading := rfl
@[simp] theorem startFail_cfg (e : ProtocolError) : (startFail e s).cfg = s.cfg := rfl
@[simp] theorem startFail_crcReg (e : ProtocolError) : (startFail e s).crcReg = s.crcReg := rfl
@[simp] theorem startFail_txBuf (e : ProtocolError) : (startFail e s).txBuf = s.txBuf := rfl
@[simp] theorem startFail_txValid (e : ProtocolError) : (startFail e s).txValid = s.txValid := rfl
@[simp] theorem startFail_rxBuf (e : ProtocolError) : (startFail e s).rxBuf = s.rxBuf := rfl
@[simp] theorem startFail_rxLen (e : ProtocolError) : (startFail e s).rxLen = s.rxLen := rfl
@[simp] theorem startFail_res (e : ProtocolError) : (startFail e s).res = s.res := rfl
@[simp] theorem startFail_regs (e : ProtocolError) : (startFail e s).regs = s.regs := rfl
@[simp] theorem startFail_regCount (e : ProtocolError) : (startFail e s).regCount = s.regCount := rfl
@[simp] theorem startFail_de (e : ProtocolError) : (startFail e s).de = s.de := rfl
@[simp] theorem startFail_busy (e : ProtocolError) : (startFail e s).busy = s.busy := rfl
@[simp] theorem startFail_refused (e : ProtocolError) : (startFail e s).refused = s.refused := rfl
@[simp] theorem startFail_rxq (e : ProtocolError) : (startFail e s).rxq = s.rxq := rfl
@[simp] theorem startFail_txTrace (e : ProtocolError) : (startFail e s).txTrace = s.txTrace := rfl
@[simp] theorem startFail_evLog (e : ProtocolError) :
    (startFail e s).evLog = s.evLog ++ [.startFailed e] := rfl
@[simp] theorem startFail_now (e : ProtocolError) : (startFail e s).now = s.now := rfl
@[simp] theorem startFail_params (e : ProtocolError) : (startFail e s).params = s.params := rfl
@[simp] theorem startFail_uart (e : ProtocolError) : (startFail e s).uart = s.uart := rfl
@[simp] theorem startFail_port (e : ProtocolError) : (startFail e s).port = s.port := rfl
@[simp] theorem startFail_activity (e : ProtocolError) : (startFail e s).activity = s.activity := rfl
@[simp] theorem startFail_agenda (e : ProtocolError) : (startFail e s).agenda = s.agenda := rfl
@[simp] theorem startFail_turnCount (e : ProtocolError) : (startFail e s).turnCount = s.turnCount := rfl
@[simp] theorem startFail_freeCount (e : ProtocolError) : (startFail e s).freeCount = s.freeCount := rfl

@[simp] theorem closeSession_fsm : (closeSession s).fsm = .sessionClosing := rfl
@[simp] theorem closeSession_prevActive : (closeSession s).prevActive = s.prevActive := rfl
@[simp] theorem closeSession_seedPending : (closeSession s).seedPending = s.seedPending := rfl
@[simp] theorem closeSession_lastPollMs : (closeSession s).lastPollMs = s.lastPollMs := rfl
@[simp] theorem closeSession_closeMs : (closeSession s).closeMs = s.now := rfl
@[simp] theorem closeSession_pending : (closeSession s).pending = s.pending := rfl
@[simp] theorem closeSession_session : (closeSession s).session = { s.session with active := false } := rfl
@[simp] theorem closeSession_lastReading : (closeSession s).lastReading = s.lastReading := rfl
@[simp] theorem closeSession_cfg : (closeSession s).cfg = s.cfg := rfl
@[simp] theorem closeSession_crcReg : (closeSession s).crcReg = s.crcReg := rfl
@[simp] theorem closeSession_txBuf : (closeSession s).txBuf = s.txBuf := rfl
@[simp] theorem closeSession_txValid : (closeSession s).txValid = s.txValid := rfl
@[simp] theorem closeSession_rxBuf : (closeSession s).rxBuf = s.rxBuf := rfl
@[simp] theorem closeSession_rxLen : (closeSession s).rxLen = s.rxLen := rfl
@[simp] theorem closeSession_res : (closeSession s).res = s.res := rfl
@[simp] theorem closeSession_regs : (closeSession s).regs = s.regs := rfl
@[simp] theorem closeSession_regCount : (closeSession s).regCount = s.regCount := rfl
@[simp] theorem closeSession_de : (closeSession s).de = s.de := rfl
@[simp] theorem closeSession_busy : (closeSession s).busy = s.busy := rfl
@[simp] theorem closeSession_refused : (closeSession s).refused = s.refused := rfl
@[simp] theorem closeSession_rxq : (closeSession s).rxq = s.rxq := rfl
@[simp] theorem closeSession_txTrace : (closeSession s).txTrace = s.txTrace := rfl
@[simp] theorem closeSession_evLog : (closeSession s).evLog = s.evLog ++ [.closed s.session.lastCl] := rfl
@[simp] theorem closeSession_now : (closeSession s).now = s.now := rfl
@[simp] theorem closeSession_params : (closeSession s).params = s.params := rfl
@[simp] theorem closeSession_uart : (closeSession s).uart = s.uart := rfl
@[simp] theorem closeSession_port : (closeSession s).port = s.port := rfl
@[simp] theorem closeSession_activity : (closeSession s).activity = s.activity := rfl
@[simp] theorem closeSession_agenda : (closeSession s).agenda = s.agenda := rfl
@[simp] theorem closeSession_turnCount : (closeSession s).turnCount = s.turnCount := rfl
@[simp] theorem closeSession_freeCount : (closeSession s).freeCount = s.freeCount := rfl

@[simp] theorem takeReading_fsm (m : MeterReading) : (takeReading m s).fsm = s.fsm := rfl
@[simp] theorem takeReading_prevActive (m : MeterReading) : (takeReading m s).prevActive = s.prevActive := rfl
@[simp] theorem takeReading_seedPending (m : MeterReading) :
    (takeReading m s).seedPending = s.seedPending := rfl
@[simp] theorem takeReading_lastPollMs (m : MeterReading) : (takeReading m s).lastPollMs = s.lastPollMs := rfl
@[simp] theorem takeReading_closeMs (m : MeterReading) : (takeReading m s).closeMs = s.closeMs := rfl
@[simp] theorem takeReading_pending (m : MeterReading) : (takeReading m s).pending = s.pending := rfl
@[simp] theorem takeReading_session (m : MeterReading) :
    (takeReading m s).session = { s.session with lastCl := m.sessionCl } := rfl
@[simp] theorem takeReading_lastReading (m : MeterReading) : (takeReading m s).lastReading = some m := rfl
@[simp] theorem takeReading_cfg (m : MeterReading) : (takeReading m s).cfg = s.cfg := rfl
@[simp] theorem takeReading_crcReg (m : MeterReading) : (takeReading m s).crcReg = s.crcReg := rfl
@[simp] theorem takeReading_txBuf (m : MeterReading) : (takeReading m s).txBuf = s.txBuf := rfl
@[simp] theorem takeReading_txValid (m : MeterReading) : (takeReading m s).txValid = s.txValid := rfl
@[simp] theorem takeReading_rxBuf (m : MeterReading) : (takeReading m s).rxBuf = s.rxBuf := rfl
@[simp] theorem takeReading_rxLen (m : MeterReading) : (takeReading m s).rxLen = s.rxLen := rfl
@[simp] theorem takeReading_res (m : MeterReading) : (takeReading m s).res = s.res := rfl
@[simp] theorem takeReading_regs (m : MeterReading) : (takeReading m s).regs = s.regs := rfl
@[simp] theorem takeReading_regCount (m : MeterReading) : (takeReading m s).regCount = s.regCount := rfl
@[simp] theorem takeReading_de (m : MeterReading) : (takeReading m s).de = s.de := rfl
@[simp] theorem takeReading_busy (m : MeterReading) : (takeReading m s).busy = s.busy := rfl
@[simp] theorem takeReading_refused (m : MeterReading) : (takeReading m s).refused = s.refused := rfl
@[simp] theorem takeReading_rxq (m : MeterReading) : (takeReading m s).rxq = s.rxq := rfl
@[simp] theorem takeReading_txTrace (m : MeterReading) : (takeReading m s).txTrace = s.txTrace := rfl
@[simp] theorem takeReading_evLog (m : MeterReading) :
    (takeReading m s).evLog = s.evLog ++ [.updated m] := rfl
@[simp] theorem takeReading_now (m : MeterReading) : (takeReading m s).now = s.now := rfl
@[simp] theorem takeReading_params (m : MeterReading) : (takeReading m s).params = s.params := rfl
@[simp] theorem takeReading_uart (m : MeterReading) : (takeReading m s).uart = s.uart := rfl
@[simp] theorem takeReading_port (m : MeterReading) : (takeReading m s).port = s.port := rfl
@[simp] theorem takeReading_activity (m : MeterReading) : (takeReading m s).activity = s.activity := rfl
@[simp] theorem takeReading_agenda (m : MeterReading) : (takeReading m s).agenda = s.agenda := rfl
@[simp] theorem takeReading_turnCount (m : MeterReading) : (takeReading m s).turnCount = s.turnCount := rfl
@[simp] theorem takeReading_freeCount (m : MeterReading) : (takeReading m s).freeCount = s.freeCount := rfl

@[simp] theorem setPrevActive_fsm (v : Bool) : (setPrevActive v s).fsm = s.fsm := rfl
@[simp] theorem setPrevActive_prevActive (v : Bool) : (setPrevActive v s).prevActive = v := rfl
@[simp] theorem setPrevActive_seedPending (v : Bool) : (setPrevActive v s).seedPending = s.seedPending := rfl
@[simp] theorem setPrevActive_lastPollMs (v : Bool) : (setPrevActive v s).lastPollMs = s.lastPollMs := rfl
@[simp] theorem setPrevActive_closeMs (v : Bool) : (setPrevActive v s).closeMs = s.closeMs := rfl
@[simp] theorem setPrevActive_pending (v : Bool) : (setPrevActive v s).pending = s.pending := rfl
@[simp] theorem setPrevActive_session (v : Bool) : (setPrevActive v s).session = s.session := rfl
@[simp] theorem setPrevActive_lastReading (v : Bool) : (setPrevActive v s).lastReading = s.lastReading := rfl
@[simp] theorem setPrevActive_cfg (v : Bool) : (setPrevActive v s).cfg = s.cfg := rfl
@[simp] theorem setPrevActive_crcReg (v : Bool) : (setPrevActive v s).crcReg = s.crcReg := rfl
@[simp] theorem setPrevActive_txBuf (v : Bool) : (setPrevActive v s).txBuf = s.txBuf := rfl
@[simp] theorem setPrevActive_txValid (v : Bool) : (setPrevActive v s).txValid = s.txValid := rfl
@[simp] theorem setPrevActive_rxBuf (v : Bool) : (setPrevActive v s).rxBuf = s.rxBuf := rfl
@[simp] theorem setPrevActive_rxLen (v : Bool) : (setPrevActive v s).rxLen = s.rxLen := rfl
@[simp] theorem setPrevActive_res (v : Bool) : (setPrevActive v s).res = s.res := rfl
@[simp] theorem setPrevActive_regs (v : Bool) : (setPrevActive v s).regs = s.regs := rfl
@[simp] theorem setPrevActive_regCount (v : Bool) : (setPrevActive v s).regCount = s.regCount := rfl
@[simp] theorem setPrevActive_de (v : Bool) : (setPrevActive v s).de = s.de := rfl
@[simp] theorem setPrevActive_busy (v : Bool) : (setPrevActive v s).busy = s.busy := rfl
@[simp] theorem setPrevActive_refused (v : Bool) : (setPrevActive v s).refused = s.refused := rfl
@[simp] theorem setPrevActive_rxq (v : Bool) : (setPrevActive v s).rxq = s.rxq := rfl
@[simp] theorem setPrevActive_txTrace (v : Bool) : (setPrevActive v s).txTrace = s.txTrace := rfl
@[simp] theorem setPrevActive_evLog (v : Bool) : (setPrevActive v s).evLog = s.evLog := rfl
@[simp] theorem setPrevActive_now (v : Bool) : (setPrevActive v s).now = s.now := rfl
@[simp] theorem setPrevActive_params (v : Bool) : (setPrevActive v s).params = s.params := rfl
@[simp] theorem setPrevActive_uart (v : Bool) : (setPrevActive v s).uart = s.uart := rfl
@[simp] theorem setPrevActive_port (v : Bool) : (setPrevActive v s).port = s.port := rfl
@[simp] theorem setPrevActive_activity (v : Bool) : (setPrevActive v s).activity = s.activity := rfl
@[simp] theorem setPrevActive_agenda (v : Bool) : (setPrevActive v s).agenda = s.agenda := rfl
@[simp] theorem setPrevActive_turnCount (v : Bool) : (setPrevActive v s).turnCount = s.turnCount := rfl
@[simp] theorem setPrevActive_freeCount (v : Bool) : (setPrevActive v s).freeCount = s.freeCount := rfl

@[simp] theorem beginPoll_fsm : (beginPoll s).fsm = s.fsm := rfl
@[simp] theorem beginPoll_prevActive : (beginPoll s).prevActive = s.prevActive := rfl
@[simp] theorem beginPoll_seedPending : (beginPoll s).seedPending = false := rfl
@[simp] theorem beginPoll_lastPollMs : (beginPoll s).lastPollMs = s.now := rfl
@[simp] theorem beginPoll_closeMs : (beginPoll s).closeMs = s.closeMs := rfl
@[simp] theorem beginPoll_pending : (beginPoll s).pending = s.pending := rfl
@[simp] theorem beginPoll_session : (beginPoll s).session = s.session := rfl
@[simp] theorem beginPoll_lastReading : (beginPoll s).lastReading = s.lastReading := rfl
@[simp] theorem beginPoll_cfg : (beginPoll s).cfg = s.cfg := rfl
@[simp] theorem beginPoll_crcReg : (beginPoll s).crcReg = s.crcReg := rfl
@[simp] theorem beginPoll_txBuf : (beginPoll s).txBuf = s.txBuf := rfl
@[simp] theorem beginPoll_txValid : (beginPoll s).txValid = s.txValid := rfl
@[simp] theorem beginPoll_rxBuf : (beginPoll s).rxBuf = s.rxBuf := rfl
@[simp] theorem beginPoll_rxLen : (beginPoll s).rxLen = s.rxLen := rfl
@[simp] theorem beginPoll_res : (beginPoll s).res = s.res := rfl
@[simp] theorem beginPoll_regs : (beginPoll s).regs = s.regs := rfl
@[simp] theorem beginPoll_regCount : (beginPoll s).regCount = s.regCount := rfl
@[simp] theorem beginPoll_de : (beginPoll s).de = s.de := rfl
@[simp] theorem beginPoll_busy : (beginPoll s).busy = s.busy := rfl
@[simp] theorem beginPoll_refused : (beginPoll s).refused = s.refused := rfl
@[simp] theorem beginPoll_rxq : (beginPoll s).rxq = s.rxq := rfl
@[simp] theorem beginPoll_txTrace : (beginPoll s).txTrace = s.txTrace := rfl
@[simp] theorem beginPoll_evLog : (beginPoll s).evLog = s.evLog := rfl
@[simp] theorem beginPoll_now : (beginPoll s).now = s.now := rfl
@[simp] theorem beginPoll_params : (beginPoll s).params = s.params := rfl
@[simp] theorem beginPoll_uart : (beginPoll s).uart = s.uart := rfl
@[simp] theorem beginPoll_port : (beginPoll s).port = s.port := rfl
@[simp] theorem beginPoll_activity : (beginPoll s).activity = s.activity := rfl
@[simp] theorem beginPoll_agenda : (beginPoll s).agenda = s.agenda := rfl
@[simp] theorem beginPoll_turnCount : (beginPoll s).turnCount = s.turnCount := rfl
@[simp] theorem beginPoll_freeCount : (beginPoll s).freeCount = s.freeCount := rfl

@[simp] theorem returnToIdle_fsm : (returnToIdle s).fsm = .idle := rfl
@[simp] theorem returnToIdle_prevActive : (returnToIdle s).prevActive = s.prevActive := rfl
@[simp] theorem returnToIdle_seedPending : (returnToIdle s).seedPending = s.seedPending := rfl
@[simp] theorem returnToIdle_lastPollMs : (returnToIdle s).lastPollMs = s.lastPollMs := rfl
@[simp] theorem returnToIdle_closeMs : (returnToIdle s).closeMs = s.closeMs := rfl
@[simp] theorem returnToIdle_pending : (returnToIdle s).pending = s.pending := rfl
@[simp] theorem returnToIdle_session :
    (returnToIdle s).session = { active := false, driverId := none, plate := none, lastCl := 0#32 } := rfl
@[simp] theorem returnToIdle_lastReading : (returnToIdle s).lastReading = s.lastReading := rfl
@[simp] theorem returnToIdle_cfg : (returnToIdle s).cfg = s.cfg := rfl
@[simp] theorem returnToIdle_crcReg : (returnToIdle s).crcReg = s.crcReg := rfl
@[simp] theorem returnToIdle_txBuf : (returnToIdle s).txBuf = s.txBuf := rfl
@[simp] theorem returnToIdle_txValid : (returnToIdle s).txValid = s.txValid := rfl
@[simp] theorem returnToIdle_rxBuf : (returnToIdle s).rxBuf = s.rxBuf := rfl
@[simp] theorem returnToIdle_rxLen : (returnToIdle s).rxLen = s.rxLen := rfl
@[simp] theorem returnToIdle_res : (returnToIdle s).res = s.res := rfl
@[simp] theorem returnToIdle_regs : (returnToIdle s).regs = s.regs := rfl
@[simp] theorem returnToIdle_regCount : (returnToIdle s).regCount = s.regCount := rfl
@[simp] theorem returnToIdle_de : (returnToIdle s).de = s.de := rfl
@[simp] theorem returnToIdle_busy : (returnToIdle s).busy = s.busy := rfl
@[simp] theorem returnToIdle_refused : (returnToIdle s).refused = s.refused := rfl
@[simp] theorem returnToIdle_rxq : (returnToIdle s).rxq = s.rxq := rfl
@[simp] theorem returnToIdle_txTrace : (returnToIdle s).txTrace = s.txTrace := rfl
@[simp] theorem returnToIdle_evLog : (returnToIdle s).evLog = s.evLog ++ [.idle] := rfl
@[simp] theorem returnToIdle_now : (returnToIdle s).now = s.now := rfl
@[simp] theorem returnToIdle_params : (returnToIdle s).params = s.params := rfl
@[simp] theorem returnToIdle_uart : (returnToIdle s).uart = s.uart := rfl
@[simp] theorem returnToIdle_port : (returnToIdle s).port = s.port := rfl
@[simp] theorem returnToIdle_activity : (returnToIdle s).activity = s.activity := rfl
@[simp] theorem returnToIdle_agenda : (returnToIdle s).agenda = s.agenda := rfl
@[simp] theorem returnToIdle_turnCount : (returnToIdle s).turnCount = s.turnCount := rfl
@[simp] theorem returnToIdle_freeCount : (returnToIdle s).freeCount = s.freeCount := rfl

@[simp] theorem beginStart_fsm (c : CardId) (p : Plate) : (beginStart c p s).fsm = .sessionStarting := rfl
@[simp] theorem beginStart_prevActive (c : CardId) (p : Plate) :
    (beginStart c p s).prevActive = s.prevActive := rfl
@[simp] theorem beginStart_seedPending (c : CardId) (p : Plate) :
    (beginStart c p s).seedPending = s.seedPending := rfl
@[simp] theorem beginStart_lastPollMs (c : CardId) (p : Plate) :
    (beginStart c p s).lastPollMs = s.lastPollMs := rfl
@[simp] theorem beginStart_closeMs (c : CardId) (p : Plate) : (beginStart c p s).closeMs = s.closeMs := rfl
@[simp] theorem beginStart_pending (c : CardId) (p : Plate) : (beginStart c p s).pending = some (c, p) := rfl
@[simp] theorem beginStart_session (c : CardId) (p : Plate) : (beginStart c p s).session = s.session := rfl
@[simp] theorem beginStart_lastReading (c : CardId) (p : Plate) :
    (beginStart c p s).lastReading = s.lastReading := rfl
@[simp] theorem beginStart_cfg (c : CardId) (p : Plate) : (beginStart c p s).cfg = s.cfg := rfl
@[simp] theorem beginStart_crcReg (c : CardId) (p : Plate) : (beginStart c p s).crcReg = s.crcReg := rfl
@[simp] theorem beginStart_txBuf (c : CardId) (p : Plate) : (beginStart c p s).txBuf = s.txBuf := rfl
@[simp] theorem beginStart_txValid (c : CardId) (p : Plate) : (beginStart c p s).txValid = s.txValid := rfl
@[simp] theorem beginStart_rxBuf (c : CardId) (p : Plate) : (beginStart c p s).rxBuf = s.rxBuf := rfl
@[simp] theorem beginStart_rxLen (c : CardId) (p : Plate) : (beginStart c p s).rxLen = s.rxLen := rfl
@[simp] theorem beginStart_res (c : CardId) (p : Plate) : (beginStart c p s).res = s.res := rfl
@[simp] theorem beginStart_regs (c : CardId) (p : Plate) : (beginStart c p s).regs = s.regs := rfl
@[simp] theorem beginStart_regCount (c : CardId) (p : Plate) : (beginStart c p s).regCount = s.regCount := rfl
@[simp] theorem beginStart_de (c : CardId) (p : Plate) : (beginStart c p s).de = s.de := rfl
@[simp] theorem beginStart_busy (c : CardId) (p : Plate) : (beginStart c p s).busy = s.busy := rfl
@[simp] theorem beginStart_refused (c : CardId) (p : Plate) : (beginStart c p s).refused = s.refused := rfl
@[simp] theorem beginStart_rxq (c : CardId) (p : Plate) : (beginStart c p s).rxq = s.rxq := rfl
@[simp] theorem beginStart_txTrace (c : CardId) (p : Plate) : (beginStart c p s).txTrace = s.txTrace := rfl
@[simp] theorem beginStart_evLog (c : CardId) (p : Plate) : (beginStart c p s).evLog = s.evLog := rfl
@[simp] theorem beginStart_now (c : CardId) (p : Plate) : (beginStart c p s).now = s.now := rfl
@[simp] theorem beginStart_params (c : CardId) (p : Plate) : (beginStart c p s).params = s.params := rfl
@[simp] theorem beginStart_uart (c : CardId) (p : Plate) : (beginStart c p s).uart = s.uart := rfl
@[simp] theorem beginStart_port (c : CardId) (p : Plate) : (beginStart c p s).port = s.port := rfl
@[simp] theorem beginStart_activity (c : CardId) (p : Plate) : (beginStart c p s).activity = s.activity := rfl
@[simp] theorem beginStart_agenda (c : CardId) (p : Plate) : (beginStart c p s).agenda = s.agenda := rfl
@[simp] theorem beginStart_turnCount (c : CardId) (p : Plate) :
    (beginStart c p s).turnCount = s.turnCount := rfl
@[simp] theorem beginStart_freeCount (c : CardId) (p : Plate) :
    (beginStart c p s).freeCount = s.freeCount := rfl

end Sys2Proof.Machine
end

