-- ==== Sys2Proof/Laws/Ops.lean ====
section
/-! SUPPORT. What each shared operation can do, said once. -/

namespace Sys2Proof.Machine

open Sys2Proof Sys2Proof.Safety

/-! Buffers. -/

theorem rxBufOf_getElem (bytes : List Byte) (index k : Nat) (h : k < 69) :
    (rxBufOf bytes index)[k] = bytes.getD k (Config.freeRxByte index k) := by
  simp [rxBufOf]

/-- Below the length stored, RXBUF holds the bytes. -/
theorem rxBufOf_getElem_lt (bytes : List Byte) (index k : Nat) (h : k < 69) (hk : k < bytes.length) :
    (rxBufOf bytes index)[k] = bytes.getD k 0#8 := by
  simp [rxBufOf_getElem, hk]

theorem regsOf_getElem (values : List Word) (index k : Nat) (h : k < 32) :
    (regsOf values index)[k] = values.getD k (Config.freeReg index k) := by
  simp [regsOf]

/-- Below the count stored, REGS holds the values. -/
theorem regsOf_getElem_lt (values : List Word) (index k : Nat) (h : k < 32) (hk : k < values.length) :
    (regsOf values index)[k] = values.getD k 0#16 := by
  simp [regsOf_getElem, hk]

theorem fits_mono {capacity : Option Nat} {m n : Nat} (h : fits capacity n) (hle : m ≤ n) :
    fits capacity m :=
  fun c hc => Nat.le_trans hle (h c hc)

/-- Bytes for which there is room all arrive. -/
theorem appendRx_of_fits {capacity : Option Nat} {queue bytes : List Byte}
    (h : fits capacity (queue.length + bytes.length)) : appendRx capacity queue bytes = queue ++ bytes := by
  cases capacity with
  | none => rfl
  | some n =>
    have := h n rfl
    simp only [appendRx]
    rw [List.take_of_length_le (by omega)]

theorem appendRx_nil_of_roomFor {n : Nat} {s : State} (h : roomFor n s) (bytes : List Byte)
    (hb : bytes.length ≤ n) : appendRx s.params.rxCapacity [] bytes = bytes :=
  appendRx_of_fits fun c hc => by simpa using Nat.le_trans hb (h c hc)

/-! A check of a receive (R80). -/

/-- A check that completes has all its bytes, as many as needed. -/
theorem checkWindow_bytes {w : Window} {s : State} {x : List Byte} (h : checkWindow w s = .bytes x) :
    x = bytesTaken w s ∧ x.length = w.need := by
  simp only [checkWindow] at h
  split at h
  · injection h with h; subst h; exact ⟨rfl, ‹_›⟩
  · split at h <;> cases h

/-- A check that times out is at or past its limit. -/
theorem checkWindow_timeout {w : Window} {s : State} (h : checkWindow w s = .timeout) :
    w.limit ≤ elapsed s.now w.t0 := by
  simp only [checkWindow] at h
  split at h
  · cases h
  · split at h
    · simpa [timerDue] using ‹timerDue _ _ _ = true›
    · cases h

/-- A check that yields keeps its window but for the bytes taken and the time of the check. -/
theorem checkWindow_wait {w v : Window} {s : State} (h : checkWindow w s = .wait v) :
    v = { w with got := bytesTaken w s, checkedAt := s.now } ∧ (bytesTaken w s).length ≠ w.need ∧
      elapsed s.now w.t0 < w.limit := by
  simp only [checkWindow] at h
  split at h
  · cases h
  · split at h
    · cases h
    · injection h with h
      exact ⟨h.symm, ‹_›, by simpa [timerDue] using ‹¬timerDue _ _ _ = true›⟩

/-- Enough bytes: the check completes. -/
theorem checkWindow_of_enough {w : Window} {s : State} (hg : w.got.length ≤ w.need)
    (h : w.need ≤ w.got.length + s.rxq.length) : checkWindow w s = .bytes (bytesTaken w s) := by
  have : (bytesTaken w s).length = w.need := by simp [bytesTaken]; omega
  simp [checkWindow, this]

/-- Too few bytes in time: the check yields. -/
theorem checkWindow_of_early {w : Window} {s : State} (h : w.got.length + s.rxq.length < w.need)
    (ht : elapsed s.now w.t0 < w.limit) :
    checkWindow w s = .wait { w with got := bytesTaken w s, checkedAt := s.now } := by
  have : (bytesTaken w s).length ≠ w.need := by simp [bytesTaken]; omega
  have ht' : timerDue s.now w.t0 w.limit = false := by simpa [timerDue] using ht
  simp [checkWindow, this, ht']

/-- Too few bytes and the window over: the check times out. -/
theorem checkWindow_of_late {w : Window} {s : State} (h : w.got.length + s.rxq.length < w.need)
    (ht : w.limit ≤ elapsed s.now w.t0) : checkWindow w s = .timeout := by
  have : (bytesTaken w s).length ≠ w.need := by simp [bytesTaken]; omega
  have ht' : timerDue s.now w.t0 w.limit = true := by simpa [timerDue] using ht
  simp [checkWindow, this, ht']

/-- The bytes have arrived: the check completes with them, and leaves the rest in RXQ. -/
theorem checkWindow_of_arrived {n : Nat} {x rest : List Byte} {w : Window} {s : State} (hx : x.length = n)
    (h : Arrived n (x ++ rest) w s) :
    checkWindow w s = .bytes x ∧ takeRx w s = { s with rxq := rest } := by
  obtain ⟨hn, hg, he⟩ := h
  have hl := congrArg List.length he
  simp only [List.length_append] at hl
  have ht : bytesTaken w s = (w.got ++ s.rxq).take n := by
    rw [bytesTaken, hn, List.take_append, List.take_of_length_le hg]
  have hr : s.rxq.drop (w.need - w.got.length) = (w.got ++ s.rxq).drop n := by
    rw [hn, List.drop_append, List.drop_of_length_le hg, List.nil_append]
  rw [he, ← hx] at ht hr
  rw [List.take_left] at ht
  rw [List.drop_left] at hr
  exact ⟨by rw [checkWindow_of_enough (by omega) (by omega), ht], by simp only [takeRx, hr]⟩

/-- Too few bytes, and in time: the check takes them all and yields. -/
theorem checkWindow_of_yield {w : Window} {s : State} (h : w.got.length + s.rxq.length < w.need)
    (ht : elapsed s.now w.t0 < w.limit) :
    checkWindow w s = .wait { w with got := w.got ++ s.rxq, checkedAt := s.now } ∧
      takeRx w s = { s with rxq := [] } := by
  rw [checkWindow_of_early h ht, bytesTaken, List.take_of_length_le (by omega), takeRx,
    List.drop_of_length_le (by omega)]
  exact ⟨rfl, rfl⟩

theorem bytesTaken_length_le {w : Window} {s : State} (h : w.got.length ≤ w.need) :
    (bytesTaken w s).length ≤ w.need := by
  simp [bytesTaken]; omega

@[simp] theorem openWindow_need (n : Nat) (t : Ms) (s : State) : (openWindow n t s).need = n := rfl
@[simp] theorem openWindow_limit (n : Nat) (t : Ms) (s : State) : (openWindow n t s).limit = t := rfl
@[simp] theorem openWindow_t0 (n : Nat) (t : Ms) (s : State) : (openWindow n t s).t0 = s.now := rfl
@[simp] theorem openWindow_got (n : Nat) (t : Ms) (s : State) : (openWindow n t s).got = [] := rfl
@[simp] theorem openWindow_checkedAt (n : Nat) (t : Ms) (s : State) :
    (openWindow n t s).checkedAt = s.now := rfl

/-- A window that has just opened has taken the oldest bytes that are there. -/
@[simp] theorem bytesTaken_openWindow (n : Nat) (t : Ms) (s u : State) :
    bytesTaken (openWindow n t s) u = u.rxq.take n := by
  simp [bytesTaken]

/-! The ends of an exchange. -/

/-- A WSR's end: the host's command ends; the FSM's start fails, or succeeds with the card PENDING holds. -/
theorem endWsr_cases {by_ : Caller} {r : Res} {s t : State} (h : endWsr by_ r s = .next t) :
    (by_ = .host ∧ t = endCommand s) ∨
      (by_ = .fsm ∧ ∃ e, r = .error e ∧ t = endCommand (startFail e s)) ∨
      (by_ = .fsm ∧ r = .ok ∧ ∃ id plate, s.pending = some (id, plate) ∧
        t = endCommand (startOkWith id plate s)) := by
  cases by_ with
  | host => simp only [endWsr] at h; injection h with h; exact .inl ⟨rfl, h.symm⟩
  | fsm =>
    cases r with
    | error e =>
      simp only [endWsr] at h; injection h with h
      exact .inr (.inl ⟨rfl, e, rfl, h.symm⟩)
    | ok =>
      simp only [endWsr, startOk] at h
      split at h
      · injection h with h
        exact .inr (.inr ⟨rfl, rfl, _, _, ‹_›, h.symm⟩)
      · cases h

/-- A WSR ends without a fault where its caller is the host, or PENDING holds a card. -/
theorem endWsr_next (by_ : Caller) (r : Res) (s : State) (h : by_ = .fsm → s.pending.isSome = true) :
    ∃ t, endWsr by_ r s = .next t := by
  cases by_ with
  | host => exact ⟨_, rfl⟩
  | fsm =>
    cases r with
    | error e => exact ⟨_, rfl⟩
    | ok =>
      obtain ⟨⟨id, plate⟩, hp⟩ := Option.isSome_iff_exists.1 (h rfl)
      exact ⟨endCommand (startOkWith id plate s), by simp only [endWsr, startOk, hp]⟩

theorem recordStatus_ok (s : State) : recordStatus .ok s = setRes .ok s := rfl

theorem recordStatus_error (e : ProtocolError) (s : State) : recordStatus (.error e) s = raise e s := rfl

/-- RHR's header checks pass only on the request's address, function code 0x03 and byteCount 2c. -/
theorem headerVerdict_ok {a : Byte} {count : Word} {h : List Byte} (hv : headerVerdict a count h = .ok) :
    h.getD 0 0 = a ∧ h.getD 1 0 = 0x03#8 ∧ (h.getD 2 0).toNat = 2 * count.toNat := by
  simp only [headerVerdict] at hv
  split at hv
  · cases hv
  · split at hv
    · cases hv
    · simp_all

theorem countInRange_iff {count : Word} :
    countInRange count = true ↔ 1 ≤ count.toNat ∧ count.toNat ≤ 32 := by
  simp [countInRange]

/-- 2n data bytes are n registers. -/
theorem decodeRegs_length : ∀ (n : Nat) (d : List Byte), d.length = 2 * n → (decodeRegs d).length = n
  | 0, d, h => by
    have : d = [] := by simpa using h
    subst this; rfl
  | _ + 1, [], h => by simp at h
  | n + 1, [_], h => by simp at h; omega
  | n + 1, _ :: _ :: d, h => by
    simp only [decodeRegs, List.length_cons]
    rw [decodeRegs_length n d (by simp at h; omega)]

theorem txFlushed_iff {s : State} : txFlushed s = true ↔ s.uart = [] := by simp [txFlushed]

end Sys2Proof.Machine
end

