-- ==== Sys2Proof/Laws/PerInstr.lean ====
section
/-! SUPPORT. A family of lemmas, one per instruction: each encoding has the form 30_encoding.md gives its class. -/

namespace Sys2Proof.Laws

open Sys2Proof Sys2Proof.Machine

/-- A command's word has an opcode of R54 and its bits 63:48 clear, the bits no command names; a frame the MLB
sends is eight bytes with a function code of R53 (R52); a frame the line delivers is at least five bytes with
one (R50, R52). -/
def EncodedForm.Statement (i : Instr) : Prop :=
  match encode i with
  | .command c =>
    opcode c.word ∈ [0x01#8, 0x02#8, 0x10#8, 0x11#8, 0x20#8, 0x21#8, 0x30#8, 0x31#8, 0x40#8, 0x41#8] ∧
      reservedZero 48 c.word = true
  | .outbound b => b.length = 8 ∧ (b.getD 1 0 = 0x06#8 ∨ b.getD 1 0 = 0x03#8)
  | .inbound b => 5 ≤ b.length ∧ (b.getD 1 0 = 0x06#8 ∨ b.getD 1 0 = 0x03#8)

theorem EncodedForm.crcInit : EncodedForm.Statement .crcInit := by
  unfold EncodedForm.Statement encode; decide

theorem EncodedForm.crcByte (d : Byte) : EncodedForm.Statement (.crcByte d) := by
  refine ⟨by simp [plainCommand], ?_⟩
  simp only [reservedZero, beq_iff_eq]
  ext k hk; interval_cases k <;> simp [plainCommand, wordByte]

theorem EncodedForm.buildWrite (a : Byte) (r v : Word) : EncodedForm.Statement (.buildWrite a r v) := by
  simp [Statement, encode, plainCommand]

theorem EncodedForm.buildRead (a : Byte) (start count : Word) :
    EncodedForm.Statement (.buildRead a start count) := by
  simp [Statement, encode, plainCommand]

theorem EncodedForm.send : EncodedForm.Statement .send := by
  unfold EncodedForm.Statement encode; decide

theorem EncodedForm.receive (n : Byte) (t : Ms) : EncodedForm.Statement (.receive n t) := by
  simp [Statement, encode, plainCommand]

theorem EncodedForm.wsr (a : Byte) (r v : Word) : EncodedForm.Statement (.wsr a r v) := by
  simp [Statement, encode, plainCommand]

theorem EncodedForm.rhr (a : Byte) (start count : Word) : EncodedForm.Statement (.rhr a start count) := by
  simp [Statement, encode, plainCommand]

theorem EncodedForm.evCard (id : CardId) (lookup : Option Plate) :
    EncodedForm.Statement (.evCard id lookup) := by
  refine ⟨by simp, ?_⟩
  show reservedZero 48 (wordOp 0x40#8) = true
  decide

theorem EncodedForm.evTick : EncodedForm.Statement .evTick := by
  unfold EncodedForm.Statement encode; decide

theorem EncodedForm.wreq (a : Byte) (r v crc : Word) : EncodedForm.Statement (.wreq a r v crc) :=
  ⟨rfl, .inl rfl⟩

theorem EncodedForm.wrsp (a : Byte) (r v crc : Word) : EncodedForm.Statement (.wrsp a r v crc) :=
  ⟨by simp [requestBody, crcField], .inl rfl⟩

theorem EncodedForm.rreq (a : Byte) (start count crc : Word) :
    EncodedForm.Statement (.rreq a start count crc) :=
  ⟨rfl, .inr rfl⟩

theorem EncodedForm.rrsp (a : Byte) (data : List Byte) (crc : Word) :
    EncodedForm.Statement (.rrsp a data crc) :=
  ⟨by simp [responseBody, crcField], .inr rfl⟩

end Sys2Proof.Laws
end

