-- ==== Sys2Proof/Laws/Step.lean ====
section
/-! SUPPORT. What a step can do: one lemma per turn, and the inversion of a step. -/

namespace Sys2Proof.Machine

open Sys2Proof Sys2Proof.Safety

@[simp] theorem nextTurn_withAgenda_cons (t : Turn) (ts : List Turn) (s : State) :
    nextTurn (withAgenda (t :: ts) s) = t := rfl

theorem nextTurn_of_agenda {s : State} {t : Turn} {ts : List Turn} (h : s.agenda = t :: ts) :
    nextTurn s = t := by
  simp [nextTurn, h]

/-- A turn that is not the clock's is taken by its agent. -/
theorem step_of_turn {s : State} {t : Turn} (h : nextTurn s = t) (hc : t ≠ .clock) :
    step s = agentTurn t (takeTurn s) := by
  simp [step, runTurn, h, hc]

theorem step_mlb {s : State} (h : nextTurn s = .mlb) : step s = mlbTurn (takeTurn s) :=
  step_of_turn h (by simp)

theorem step_drain {s : State} {n : Nat} (h : nextTurn s = .drain n) :
    step s = .next (drainUart n (takeTurn s)) :=
  step_of_turn h (by simp)

theorem step_deliver {s : State} {b : List Byte} (h : nextTurn s = .deliver b) :
    step s = lineTurn b (takeTurn s) :=
  step_of_turn h (by simp)

theorem step_present {s : State} {c : Command} (h : nextTurn s = .present c) :
    step s = .next (presentCommand c (takeTurn s)) :=
  step_of_turn h (by simp)

theorem step_reset {s : State} {r : ResetInput} (h : nextTurn s = .reset r) :
    step s = .next (resetState r (takeTurn s)) :=
  step_of_turn h (by simp)

/-- The clock's turn, with no check overdue. -/
theorem step_clock {s : State} (h : nextTurn s = .clock) (ho : checkOverdue s = false) :
    step s = .next (tickClock (takeTurn s)) := by
  simp [step, runTurn, h, ho, agentTurn]

/-- The clock's turn, with a check overdue: the control loop checks first. -/
theorem step_overdue {s : State} (h : nextTurn s = .clock) (ho : checkOverdue s = true) :
    step s = mlbTurn s := by
  simp [step, runTurn, h, ho]

/-- What a step can be: each agent's turn, or the overdue check before the clock's. -/
theorem step_cases (s : State) :
    (nextTurn s = .clock ∧ checkOverdue s = true ∧ step s = mlbTurn s) ∨
    (nextTurn s = .mlb ∧ step s = mlbTurn (takeTurn s)) ∨
    (nextTurn s = .clock ∧ checkOverdue s = false ∧ step s = .next (tickClock (takeTurn s))) ∨
    (∃ n, nextTurn s = .drain n ∧ step s = .next (drainUart n (takeTurn s))) ∨
    (∃ b, nextTurn s = .deliver b ∧ step s = lineTurn b (takeTurn s)) ∨
    (∃ c, nextTurn s = .present c ∧ step s = .next (presentCommand c (takeTurn s))) ∨
    ∃ r, nextTurn s = .reset r ∧ step s = .next (resetState r (takeTurn s)) := by
  cases h : nextTurn s with
  | mlb => exact .inr (.inl ⟨rfl, step_mlb h⟩)
  | clock =>
    cases ho : checkOverdue s with
    | true => exact .inl ⟨rfl, rfl, step_overdue h ho⟩
    | false => exact .inr (.inr (.inl ⟨rfl, rfl, step_clock h ho⟩))
  | drain n => exact .inr (.inr (.inr (.inl ⟨n, rfl, step_drain h⟩)))
  | deliver b => exact .inr (.inr (.inr (.inr (.inl ⟨b, rfl, step_deliver h⟩))))
  | present c => exact .inr (.inr (.inr (.inr (.inr (.inl ⟨c, rfl, step_present h⟩)))))
  | reset r => exact .inr (.inr (.inr (.inr (.inr (.inr ⟨r, rfl, step_reset h⟩)))))

/-! The control loop's turn, by where it is held. -/

theorem mlbTurn_sending {s : State} {x : Sender} (h : s.activity = .sending x) :
    mlbTurn s = if txFlushed s then sendContinue x (setDe false s) else .next s := by
  simp [mlbTurn, h]

theorem mlbTurn_receiving {s : State} {x : Receiver} {w : Window} (h : s.activity = .receiving x w) :
    mlbTurn s = receiveContinue x w s := by
  simp [mlbTurn, h]

theorem mlbTurn_no_command {s : State} (h : s.activity = .none) (hp : s.port = []) :
    mlbTurn s = .next s := by
  simp [mlbTurn, h, hp]

theorem mlbTurn_busy {s : State} (h : s.activity = .none) (hb : s.busy = true) : mlbTurn s = .next s := by
  cases hp : s.port <;> simp [mlbTurn, h, hp, hb]

theorem mlbTurn_accept {s : State} {c : Command} {rest : List Command} (h : s.activity = .none)
    (hb : s.busy = false) (hp : s.port = c :: rest) : mlbTurn s = accept c (popPort s) := by
  simp [mlbTurn, h, hp, hb]

/-- A command is accepted: it decodes and runs, or it is refused. -/
theorem accept_of_ok {c : Command} {i : Instr} {s : State} (h : decodeCommand c = .ok i) :
    accept c s = exec i s := by
  simp [accept, h]

theorem accept_of_error {c : Command} {e : Reject} {s : State} (h : decodeCommand c = .error e) :
    accept c s = .next (refuse .illegalCommand s) := by
  simp [accept, h]

/-! Runs of several steps. -/

theorem steps_one (s : State) : steps 1 s = step s := by
  simp only [steps]; cases step s <;> rfl

theorem steps_succ_of_next {k : Nat} {s t : State} (h : step s = .next t) : steps (k + 1) s = steps k t := by
  simp only [steps, h]

/-- The UART drains and the control loop is scheduled: the send is over, and the exchange goes on. -/
theorem steps_drain_mlb {n : Nat} {t : State} {x : Sender} (ha : t.activity = .sending x)
    (hu : t.uart.length ≤ n) :
    steps 2 (withAgenda [.drain n, .mlb] t) =
      sendContinue x (setDe false
        (takeTurn (drainUart n (takeTurn (withAgenda [.drain n, .mlb] t))))) := by
  rw [steps_succ_of_next (step_drain rfl), steps_one, step_mlb rfl,
    mlbTurn_sending (x := x) (by simpa using ha), if_pos]
  rw [txFlushed_iff]; simp; omega

/-! What an exchange goes on with, where its bytes are there. -/

/-- At the end of a send the control loop lowers DE and goes on with the exchange (R77 step 5). -/
theorem step_of_sendOver {s : State} {x : Sender} (h : SendOver x s) :
    step s = sendContinue x (setDe false (takeTurn s)) := by
  obtain ⟨ha, hu, hn⟩ := h
  rw [step_mlb hn, mlbTurn_sending (x := x) (by simpa using ha), if_pos]
  rw [txFlushed_iff]; simpa using hu

/-- A window that has just opened on waiting bytes has them there (R80). -/
theorem arrived_openWindow {n : Nat} {limit : Ms} {bytes : List Byte} {s : State} (h : s.rxq = bytes) :
    Arrived n bytes (openWindow n limit s) s := by
  simp [Arrived, h]

/-- A body receive whose bytes are exactly those that wait takes them all at its first check (R80, R89). -/
theorem bodyStart_of_waiting (count : Word) (h : List Byte) (by_ : Caller) (s : State)
    (hq : s.rxq.length = (h.getD 2 0).toNat + 2) :
    bodyStart count h by_ s = bodyContinue count h by_ (.bytes s.rxq) (discardRx s) := by
  have e : takeRx (openWindow ((h.getD 2 0).toNat + 2) s.cfg.readTimeoutMs s) s = discardRx s := by
    simp only [takeRx, discardRx, openWindow_need, openWindow_got, List.length_nil, Nat.sub_zero, ← hq,
      List.drop_length]
  simp only [bodyStart, e]
  rw [checkWindow_of_enough (by simp) (by simp [hq]), bytesTaken_openWindow, ← hq, List.take_length]

/-! The free schedule is fair (R9, C8). -/

/-- The fair turn that is due comes, after a gap of some length. -/
theorem freePhase_due (n : Nat) : ∃ m, n ≤ m ∧ freePhase m = (0, (freePhase n).2) := by
  generalize hp : freePhase n = p
  obtain ⟨k, f⟩ := p
  induction k generalizing n with
  | zero => exact ⟨n, Nat.le_refl n, hp⟩
  | succ k ih =>
    obtain ⟨m, hm, he⟩ := ih (n + 1) (by simp [freePhase, hp])
    exact ⟨m, by omega, he⟩

/-- After it, the next of the three is due. -/
theorem freePhase_next (n : Nat) : ∃ m, n ≤ m ∧ freePhase m = (0, (freePhase n).2.succ) := by
  obtain ⟨m, hm, he⟩ := freePhase_due n
  obtain ⟨l, hl, hq⟩ := freePhase_due (m + 1)
  exact ⟨l, by omega, by rw [hq]; simp [freePhase, he]⟩

/-- Each of the three has its turn again and again. -/
theorem freeTurn_again (f : FairTurn) (n : Nat) : ∃ m, n ≤ m ∧ freeTurn m = f.turn := by
  obtain ⟨a, ha, pa⟩ := freePhase_due n
  obtain ⟨b, hb, pb⟩ := freePhase_next a
  obtain ⟨c, hc, pc⟩ := freePhase_next b
  have key : f = (freePhase n).2 ∨ f = (freePhase n).2.succ ∨ f = (freePhase n).2.succ.succ := by
    cases f <;> cases (freePhase n).2 <;> simp [FairTurn.succ]
  rw [pa] at pb
  rw [pb] at pc
  rcases key with e | e | e
  · exact ⟨a, ha, by simp [freeTurn, pa, e]⟩
  · exact ⟨b, by omega, by simp [freeTurn, pb, e]⟩
  · exact ⟨c, by omega, by simp [freeTurn, pc, e]⟩

end Sys2Proof.Machine
end

