-- ==== Sys2Proof/Tests/Slice0.lean ====
section
/-! SUPPORT. The model's own tests: words and frames written out from the spec's tables, and small steps. Every
expected value is from 95_test_vectors.md, by the section named. -/

namespace Sys2Proof.Tests

set_option maxRecDepth 20000

open Sys2Proof Sys2Proof.Machine Sys2Proof.Safety

/-! Helpers. -/

/-- The reset state with numbers for the OPEN parameters of R4. -/
def base : State := { State.reset with params := { rxCapacity := some 69, rxPollMaxMs := 5 } }

/-- A part of the next state, where there is one. -/
def after {α : Type} (o : Host.Outcome State Fault Refusal) (f : State → α) : Option α :=
  match o with
  | .next t => some (f t)
  | .fault _ => none
  | .refused _ => none

def c1 : CardId := ⟨1⟩
def plateP : Plate := ⟨34⟩

/-- The control loop has its turn, the UART has drained, and `bytes` are waiting. -/
def drained (x : Sender) (bytes : List Byte) : State :=
  { base with busy := true, de := true, activity := .sending x, rxq := bytes, agenda := [.mlb] }

/-- The start write's echo (section 2.2). -/
def echo : List Byte := [0x01#8, 0x06#8, 0x00#8, 0x00#8, 0x00#8, 0x01#8, 0x48#8, 0x0A#8]

/-- The reference poll response R (section 2.5). -/
def response : List Byte :=
  [0x01#8, 0x03#8, 0x0C#8, 0x00#8, 0x0B#8, 0x00#8, 0x00#8, 0x04#8, 0xD2#8, 0x00#8, 0x01#8, 0x86#8, 0xA0#8,
    0x01#8, 0xF4#8, 0x51#8, 0x17#8]

/-! WellFormed refuses an ill-formed term, check by check. -/

theorem test_wellFormed_receive_zero : (Instr.receive 0#8 100#32).wellFormed = false := by decide
theorem test_wellFormed_receive_seventy : (Instr.receive 70#8 100#32).wellFormed = false := by decide
theorem test_wellFormed_receive_bounds :
    (Instr.receive 1#8 0#32).wellFormed = true ∧ (Instr.receive 69#8 100#32).wellFormed = true := by decide
theorem test_wellFormed_wreq_crc : (Instr.wreq 1#8 0#16 1#16 0x0A49#16).wellFormed = false := by decide
theorem test_wellFormed_wrsp_crc : (Instr.wrsp 1#8 0#16 1#16 0x480A#16).wellFormed = false := by decide
theorem test_wellFormed_rreq_crc : (Instr.rreq 1#8 1#16 6#16 0x9408#16).wellFormed = false := by decide
theorem test_wellFormed_rrsp_crc : (Instr.rrsp 1#8 [0x12#8, 0x34#8] 0#16).wellFormed = false := by decide
theorem test_wellFormed_rrsp_length (c : Word) :
    (Instr.rrsp 1#8 (List.replicate 256 0#8) c).wellFormed = false := by
  have : decide ((List.replicate 256 0#8).length ≤ 255) = false := by rw [List.length_replicate]; rfl
  simp only [Instr.wellFormed, this, Bool.false_and]
theorem test_wellFormed_frames :
    (Instr.wreq 1#8 0#16 1#16 0x0A48#16).wellFormed = true ∧
      (Instr.rreq 1#8 1#16 6#16 0x0894#16).wellFormed = true := by decide

/-! Decoding: a word or a frame of each constructor (sections 2.2, 2.4, 2.5). -/

theorem test_decode_crcInit : decodeTableWord 64 0x0000000000000001 = some .crcInit := by decide
theorem test_decode_crcByte : decodeTableWord 64 0x0000000000000102 = some (.crcByte 1#8) := by decide
theorem test_decode_buildWrite :
    decodeTableWord 64 0x0000ABCD12340110 = some (.buildWrite 1#8 0x1234#16 0xABCD#16) := by decide
theorem test_decode_buildRead :
    decodeTableWord 64 0x0000000600010111 = some (.buildRead 1#8 1#16 6#16) := by decide
theorem test_decode_send : decodeTableWord 64 0x0000000000000020 = some .send := by decide
theorem test_decode_receive : decodeTableWord 64 0x0000000000640821 = some (.receive 8#8 100#32) := by decide
theorem test_decode_wsr : decodeTableWord 64 0x0000000300011130 = some (.wsr 0x11#8 1#16 3#16) := by decide
theorem test_decode_rhr : decodeTableWord 64 0x0000000600010131 = some (.rhr 1#8 1#16 6#16) := by decide
theorem test_decode_evCard :
    decode (.command { word := 0x40#64, id := c1, lookup := some plateP }) = .ok (.evCard c1 (some plateP)) := by
  decide
theorem test_decode_evTick : decodeTableWord 64 0x0000000000000041 = some .evTick := by decide
theorem test_decode_wreq :
    decode (.outbound [0x01#8, 0x06#8, 0x12#8, 0x34#8, 0xAB#8, 0xCD#8, 0x73#8, 0xD9#8]) =
      .ok (.wreq 1#8 0x1234#16 0xABCD#16 0xD973#16) := by decide
theorem test_decode_wrsp :
    decode (.inbound [0x01#8, 0x06#8, 0x00#8, 0x00#8, 0x00#8, 0x02#8, 0x08#8, 0x0B#8]) =
      .ok (.wrsp 1#8 0#16 2#16 0x0B08#16) := by decide
theorem test_decode_rreq :
    decode (.outbound [0x01#8, 0x03#8, 0x00#8, 0x02#8, 0x00#8, 0x02#8, 0x65#8, 0xCB#8]) =
      .ok (.rreq 1#8 2#16 2#16 0xCB65#16) := by decide
theorem test_decode_rrsp :
    decode (.inbound response) =
      .ok (.rrsp 1#8 [0x00#8, 0x0B#8, 0x00#8, 0x00#8, 0x04#8, 0xD2#8, 0x00#8, 0x01#8, 0x86#8, 0xA0#8, 0x01#8,
        0xF4#8] 0x1751#16) := by decide

/-- Section 2.4, the refused words, each by its reason. -/
theorem test_decode_illegal_words :
    decode (.command (plainCommand 0x0000000000000003#64)) = .error .undefinedOp ∧
      decode (.command (plainCommand 0x0000000000000101#64)) = .error .reservedBit ∧
      decode (.command (plainCommand 0x0000000000010102#64)) = .error .reservedBit ∧
      decode (.command (plainCommand 0x0001000100000130#64)) = .error .reservedBit ∧
      decode (.command (plainCommand 0x8000000000000041#64)) = .error .reservedBit ∧
      decode (.command (plainCommand 0x0000000000640021#64)) = .error .receiveLength ∧
      decode (.command (plainCommand 0x0000000000644621#64)) = .error .receiveLength := by decide

/-- R53: an exception-style frame and a frame one byte short are no frames of Part A. -/
theorem test_decode_bad_frames :
    decode (.inbound [0x01#8, 0x83#8, 0x02#8, 0xC0#8, 0xF1#8]) = .error .functionCode ∧
      decode (.inbound (echo.take 7)) = .error .frameLength := by decide

/-! The CRC and the frames (sections 2.1, 2.2). -/

theorem test_crc_check_value :
    crc16 [0x31#8, 0x32#8, 0x33#8, 0x34#8, 0x35#8, 0x36#8, 0x37#8, 0x38#8, 0x39#8] = 0x4B37#16 := by decide
theorem test_crc_trace : bitstep 0x9FFE#16 = 0x4FFF#16 ∧ bytestep 0x0000#16 0x80#8 = 0xA001#16 := by decide
theorem test_crcOk_frames :
    crcOk echo = true ∧ crcOk response = true ∧ crcOk [0x01#8, 0x86#8, 0x02#8, 0xC3#8, 0xA1#8, 0#8, 0#8, 0#8] = true ∧
      crcOk [0x01#8, 0x06#8, 0x00#8, 0x00#8, 0x00#8, 0x00#8, 0x48#8, 0x0A#8] = false := by decide
theorem test_program1_residue :
    after (execAll (pseudoCrc16 echo) { base with crcReg := 0x1234#16 }) (·.crcReg) = some 0#16 := by decide
theorem test_reading :
    decodeReading (storeRegs [0x000B#16, 0#16, 0x04D2#16, 1#16, 0x86A0#16, 0x01F4#16] base).regs =
      { status := 0x000B#16, sessionCl := 1234#32, totalCl := 100000#32, flowClPerMin := 500#16 } := by
  simp [decodeReading, storeRegs, regsOf, u32]
theorem test_liters : litersWhole 1234 = 12 ∧ litersHundredths 1234 = 34 := by decide

/-! Steps of the plain commands. -/

theorem test_crcInit : after (exec .crcInit { base with crcReg := 0x1234#16 }) (·.crcReg) = some 0xFFFF#16 := by
  decide
theorem test_crcByte : after (exec (.crcByte 0xFF#8) base) (·.crcReg) = some 0x00FF#16 := by decide
theorem test_buildWrite :
    after (exec (.buildWrite 0xF7#8 0#16 1#16) base) (fun t => (t.txBuf.toList, t.txValid)) =
      some ([0xF7#8, 0x06#8, 0x00#8, 0x00#8, 0x00#8, 0x01#8, 0x5C#8, 0x9C#8], true) := by decide
theorem test_buildRead_count_33 :
    after (exec (.buildRead 1#8 0#16 33#16) base) (·.txBuf.toList) =
      some [0x01#8, 0x03#8, 0x00#8, 0x00#8, 0x00#8, 0x21#8, 0x85#8, 0xD2#8] := by decide
theorem test_send_at_reset : after (exec .send base) (fun t => (t.refused, t.de, t.txTrace)) = some (true, false, []) := by
  decide
/-- Section 2.3: the stale byte goes, and the bytes are recorded with DE = 1. -/
theorem test_send_discards_stale :
    after (exec .send { base with txValid := true, rxq := [0xAA#8] }) (fun t => (t.rxq, t.de, t.txTrace.length)) =
      some ([], true, 8) := by decide
theorem test_receive_leaves_extra_byte :
    after (exec (.receive 8#8 100#32) { base with rxq := echo ++ [0x55#8] }) (fun t => (t.res, t.rxq)) =
      some (.ok, [0x55#8]) := by decide
theorem test_receive_zero_window :
    after (exec (.receive 8#8 0#32) { base with rxq := echo.take 7 }) (fun t => (t.res, t.rxq)) =
      some (.error .timeout, []) := by decide

/-! The exchanges: the check of a whole response (section 2.5). -/

theorem test_wsr_verdicts :
    wsrVerdict 1#8 0#16 1#16 echo = .ok ∧
      wsrVerdict 1#8 0#16 1#16 [0x01#8, 0x06#8, 0#8, 0#8, 0#8, 0x01#8, 0x48#8, 0x0B#8] = .error .crcMismatch ∧
      wsrVerdict 1#8 0#16 1#16 [0x02#8, 0x06#8, 0#8, 0#8, 0#8, 0x01#8, 0x48#8, 0x39#8] =
        .error .addressOrFunctionMismatch ∧
      wsrVerdict 1#8 0#16 1#16 [0x01#8, 0x86#8, 0x02#8, 0xC3#8, 0xA1#8, 0#8, 0#8, 0#8] =
        .error .addressOrFunctionMismatch ∧
      wsrVerdict 1#8 0#16 1#16 [0x01#8, 0x06#8, 0#8, 0x01#8, 0#8, 0x01#8, 0x19#8, 0xCA#8] =
        .error .echoMismatch := by decide
/-- The first response byte after the eight stays in RXQ. -/
theorem test_wsr_extra_byte :
    after (step (drained (.wsr 1#8 0#16 1#16 .host) (echo ++ [0x55#8]))) (fun t => (t.res, t.rxLen, t.rxq, t.de)) =
      some (.ok, 8#7, [0x55#8], false) := by decide
theorem test_rhr_response :
    after (step (drained (.rhr 1#8 6#16 .host) response)) (fun t => (t.res, t.regCount, t.rxLen)) =
      some (.ok, 6#6, 17#7) := by decide
theorem test_rhr_exception_style_frame :
    after (step (drained (.rhr 1#8 6#16 .host) [0x01#8, 0x83#8, 0x02#8, 0xC0#8, 0xF1#8])) (fun t => (t.res, t.rxq)) =
      some (.error .addressOrFunctionMismatch, [0xC0#8, 0xF1#8]) := by decide

/-! The session FSM (section 2.6). -/

theorem test_evCard_no_match :
    after (exec (.evCard c1 none) base) (fun t => (t.fsm, t.evLog)) = some (.idle, [.rejected c1]) := by decide
theorem test_evCard_start :
    after (step { drained (.wsr 1#8 0#16 1#16 .fsm) echo with
        fsm := .sessionStarting, pending := some (c1, plateP) })
      (fun t => (t.fsm, t.seedPending, t.evLog)) = some (.sessionActive, true, [.started plateP]) := by decide
/-- One millisecond before the interval is over, and at it. -/
theorem test_evTick_interval :
    after (exec .evTick { base with fsm := .sessionActive, lastPollMs := 1000#32, now := 1299#32 }) (·.busy) =
        some false ∧
      after (exec .evTick { base with fsm := .sessionActive, lastPollMs := 1000#32, now := 1300#32 })
        (fun t => (t.busy, t.lastPollMs)) = some (true, 1300#32) := by decide
/-- The summary window across the wrap of NOW. -/
theorem test_evTick_summary_wrap :
    after (exec .evTick { base with fsm := .sessionClosing, closeMs := 0xFFFFFF00#32, now := 0x00000AB8#32 })
      (fun t => (t.fsm, t.evLog)) = some (.idle, [.idle]) := by decide
/-- Program 6 part B, its last poll: bit 3 set does not hold the session open. -/
theorem test_poll_closes :
    (pollOkWith { status := 0x0009#16, sessionCl := 300#32, totalCl := 0#32, flowClPerMin := 0#16 }
      { base with fsm := .sessionActive, prevActive := true, now := 930#32 }).evLog.getLast? =
      some (.closed 300#32) := by decide

/-! The wire frames, and a step from a placed table word. -/

theorem test_wreq : after (exec (.wreq 1#8 0#16 1#16 0x0A48#16) base) (·.uart) = some echo := by decide
theorem test_wrsp : after (exec (.wrsp 1#8 0#16 1#16 0x0A48#16) base) (·.rxq) = some echo := by decide
theorem test_rreq :
    after (exec (.rreq 1#8 1#16 6#16 0x0894#16) base) (fun t => t.txTrace.map (·.1)) =
      some [0x01#8, 0x03#8, 0x00#8, 0x01#8, 0x00#8, 0x06#8, 0x94#8, 0x08#8] := by decide
theorem test_rrsp :
    after (exec (.rrsp 1#8 [0x12#8, 0x34#8] 0xABCD#16) base) (·.rxq) =
      some [0x01#8, 0x03#8, 0x02#8, 0x12#8, 0x34#8, 0xCD#8, 0xAB#8] := by decide
theorem test_placed_word :
    after (step (State.reset.withFetchWord 64 0x0000000000000102)) (·.crcReg) = some 0x807E#16 := by decide
/-- Program 7: reset during a send. -/
theorem test_reset_during_send :
    after (step { drained (.wsr 1#8 0#16 1#16 .host) [] with
        agenda := [.reset { cfg := base.cfg, now := 7#32, rxq := [], txBuf := base.txBuf, rxBuf := base.rxBuf,
                            regs := base.regs, lastPollMs := 0#32, closeMs := 0#32, port := [] }] })
      (fun t => (t.de, t.busy, t.now)) = some (false, false, 7#32) := by decide

/-! Witnesses: for each statement with hypotheses, a concrete state and operands that meet them all; for several
clauses, one each at a boundary. The name is the statement's. -/

/-- The numbered token c1 presents with a plate. -/
def cardCommand : Command := { word := 0x40#64, id := c1, lookup := some plateP }

/-- A card command waits, and the control loop has its turn. -/
def cardWaiting : State := { base with port := [cardCommand], agenda := [.mlb] }

/-- A body receive of 14 bytes that has 4 of them, late by nothing: NOW is its limit. -/
def bodyLate (by_ : Caller) : State :=
  { base with
    busy := true, fsm := .sessionActive, now := 104#32, rxq := [0x01#8], agenda := [.mlb]
    activity := .receiving (.body 6#16 [0x01#8, 0x03#8, 0x0C#8] by_)
      { need := 14, limit := 100#32, t0 := 4#32, got := [0x00#8, 0x0B#8, 0x00#8], checkedAt := 103#32 } }

/-- An open receive, checked five milliseconds ago, and the clock's turn. -/
def overdue : State :=
  { base with
    busy := true, now := 9#32, agenda := [.clock]
    activity := .receiving .command
      { need := 8, limit := 100#32, t0 := 0#32, got := [], checkedAt := 4#32 } }

/-- A poll's header receive in a session whose last reading had the active bit. -/
def polling : State :=
  { base with
    fsm := .sessionActive, busy := true, txValid := true, prevActive := true, agenda := [.mlb], now := 30#32
    session := { active := true, driverId := some c1, plate := some plateP, lastCl := 520#32 }
    lastReading := some { status := 0x000B#16, sessionCl := 520#32, totalCl := 100520#32, flowClPerMin := 480#16 }
    activity := .receiving (.header 1#8 6#16 .fsm)
      { need := 3, limit := 100#32, t0 := 24#32, got := [], checkedAt := 29#32 } }

/-- A window of `need` bytes, opened at 4 with the reference limit, that has taken `got`. -/
def windowOf (need : Nat) (got : List Byte) : Window :=
  { need := need, limit := 100#32, t0 := 4#32, got := got, checkedAt := 9#32 }

/-- Held in the receive `x` one millisecond after its last check, with `bytes` in RXQ, at the loop's turn. -/
def held (x : Receiver) (w : Window) (bytes : List Byte) : State :=
  { base with busy := true, now := 10#32, rxq := bytes, agenda := [.mlb], activity := .receiving x w }

/-- The echo of another register value than the start write's, with its own CRC. -/
def wrongEcho : List Byte := [0x01#8, 0x06#8, 0x00#8, 0x00#8, 0x00#8, 0x02#8, 0x08#8, 0x0B#8]

/-- A send in progress with one byte in the UART. -/
def sending : State := { drained .command [] with uart := [0x0A#8] }

/-- A RECEIVE at its limit with no byte there, at the control loop's turn. -/
def timingOut : State :=
  { overdue with
    now := 104#32, agenda := [.mlb]
    activity := .receiving .command
      { need := 8, limit := 100#32, t0 := 0#32, got := [], checkedAt := 99#32 } }

/-- The two timeouts of the configuration are 0. -/
def noLimit (s : State) : State := { s with cfg := { s.cfg with writeTimeoutMs := 0#32, readTimeoutMs := 0#32 } }

/-- A whole read response of one register whose CRC field is zero: a wrong CRC. -/
def wrongCrc : List Byte := [0x01#8, 0x03#8, 0x02#8, 0x12#8, 0x34#8, 0#8, 0#8]

theorem timingOk_of {s : State} {x : Receiver} {w : Window} (h : s.activity = .receiving x w)
    (h1 : elapsed w.checkedAt w.t0 < w.limit)
    (h2 : (elapsed s.now w.checkedAt).toNat ≤ s.params.rxPollMaxMs) : TimingOk s := by
  intro y v hy
  rw [h] at hy
  injection hy with _ hv
  subst hv
  exact ⟨h1, h2⟩

theorem not_resetTurn_of {s : State} (h : nextTurn s = .mlb) : ¬resetTurn s := by
  rintro ⟨r, hr⟩; rw [h] at hr; cases hr

theorem stateOk_cardWaiting : StateOk cardWaiting := by
  constructor <;>
    simp [cardWaiting, base, State.reset, sendInProgress, ActivityOk, startInProgress, pollInProgress, fits,
      emptySession]

theorem stateOk_polling : StateOk polling := by
  constructor <;>
    simp [polling, base, State.reset, sendInProgress, ActivityOk, startInProgress, pollInProgress, fits,
      WindowOk, countInRange, volumeOf, sessionActiveBit, Config.referenceCfg]

theorem stateOk_sending : StateOk sending := by
  constructor <;>
    simp [sending, drained, base, State.reset, sendInProgress, ActivityOk, startInProgress, pollInProgress, fits,
      emptySession]

theorem stateOk_timingOut : StateOk timingOut := by
  constructor <;>
    simp [timingOut, overdue, base, State.reset, sendInProgress, ActivityOk, startInProgress, pollInProgress, fits,
      WindowOk, emptySession]

theorem paramsOk_timingOut : ParamsOk timingOut :=
  ⟨by intro c hc; cases hc; decide, by decide, by decide, by decide⟩

theorem room_base (n : Nat) (h : n ≤ 69) : roomFor n base := by
  intro c hc; cases hc; exact h

theorem witness_CrcByteOfItsLowByteShifts : base.crcReg.extractLsb' 0 8 = 0xFF#8 := by decide
theorem witness_CrcResidueIsZero : 2 ≤ [0xFF#8, 0xFF#8].length ∧ 2 ≤ echo.length := by decide
/-- The last bit of the CRC field of a one-byte sequence, and the first bit of an empty one's. -/
theorem witness_SingleBitFlipFailsCheck :
    (2 < [0x01#8].length + 2 ∧ 7 < 8) ∧ 0 < ([] : List Byte).length + 2 ∧ 0 < 8 := by decide
theorem witness_RegistersDecodeBigEndianInOrder :
    [0x12#8, 0x34#8, 0xAB#8, 0xCD#8].length = 2 * 2 ∧ 1 < 2 ∧ ([] : List Byte).length = 2 * 0 := by decide
theorem witness_DecodeOfEncodeIsTheInstruction :
    (Instr.receive 69#8 0xFFFFFFFF#32).wellFormed = true ∧
      (Instr.evCard c1 (some plateP)).wellFormed = true ∧
      (Instr.wrsp 1#8 0#16 1#16 0x0A48#16).wellFormed = true ∧
      (Instr.rrsp 1#8 [] (crc16 [0x01#8, 0x03#8, 0x00#8])).wellFormed = true := by decide
theorem witness_EncodeOfDecodeIsTheWord :
    decodeCommand (plainCommand 0x0000002000000131#64) = .ok (.rhr 1#8 0#16 32#16) ∧
      decodeOutbound echo = .ok (.wreq 1#8 0#16 1#16 0x0A48#16) ∧
      decodeInbound echo = .ok (.wrsp 1#8 0#16 1#16 0x0A48#16) := by decide
/-- One word for each reason of R57. -/
theorem witness_IllegalWordSetsRefusedOnly :
    IllegalWord 0x03#64 ∧ IllegalWord 0x0101#64 ∧ IllegalWord 0x10102#64 ∧ IllegalWord 0x1000000000031#64 ∧
      IllegalWord 0x0021#64 ∧ IllegalWord 0x4621#64 := by
  refine ⟨.inl (by decide), .inr (.inl (by decide)), .inr (.inr (.inl (by decide))),
    .inr (.inr (.inr (.inl (by decide)))), .inr (.inr (.inr (.inr (by decide)))),
    .inr (.inr (.inr (.inr (by decide))))⟩
/-- Each refusal at its boundary, and just inside it a command that gives a next state. -/
theorem witness_RefusedForExactlyTheRulesReasons :
    RefusedByRule .send base ∧ RefusedByRule (.receive 0#8 0#32) base ∧ RefusedByRule (.receive 70#8 0#32) base ∧
      RefusedByRule (.rhr 1#8 0#16 0#16) base ∧ RefusedByRule (.rhr 1#8 0#16 33#16) base ∧
      ¬RefusedByRule (.receive 69#8 0#32) base ∧ (∃ t, exec (.receive 69#8 0#32) base = .next t) ∧
      ¬RefusedByRule (.rhr 1#8 0#16 32#16) base ∧ ∃ t, exec (.rhr 1#8 0#16 32#16) base = .next t := by
  refine ⟨rfl, .inl rfl, .inr (by decide), .inl rfl, .inr (by decide), ?_, ⟨_, rfl⟩, ?_, ⟨_, rfl⟩⟩ <;>
    simp [RefusedByRule]
theorem witness_SendTransmitsFrameAndCompletes :
    ({ base with txValid := true, txBuf := buildWriteFrame 1#8 0#16 1#16 } : State).txValid = true := rfl
theorem witness_SendHoldsUntilDrained :
    (sending.activity = .sending .command ∧ sending.uart ≠ [] ∧ nextTurn sending = .mlb) ∧
      StateOk sending ∧ sendInProgress sending.activity = true :=
  ⟨⟨rfl, by decide, rfl⟩, stateOk_sending, rfl⟩
/-- One byte, and 69 bytes. -/
theorem witness_ReceiveCompletesWithWaitingBytes :
    (1 ≤ (1#8).toNat ∧ (1#8).toNat ≤ 69 ∧ (1#8).toNat ≤ ({ base with rxq := [0x55#8] } : State).rxq.length) ∧
      1 ≤ (69#8).toNat ∧ (69#8).toNat ≤ 69 ∧
        (69#8).toNat ≤ ({ base with rxq := List.replicate 69 0#8 } : State).rxq.length := by decide
/-- The last byte of eight, and one more, come after a yield. -/
theorem witness_ReceiveCompletesWithWaitingBytes_later :
    Arrived echo.length (echo ++ [0x55#8]) (windowOf 8 (echo.take 7))
      (held .command (windowOf 8 (echo.take 7)) [0x0A#8, 0x55#8]) ∧ echo.length ≤ 69 :=
  ⟨⟨rfl, by decide, rfl⟩, by decide⟩
/-- Seven of eight bytes, with no window and with the shortest. -/
theorem witness_ReceiveWithTooFewBytes :
    let s : State := { base with rxq := echo.take 7 }
    ((8#8).toNat ≤ 69 ∧ s.rxq.length < (8#8).toNat ∧ 0#32 = 0#32) ∧
      (69#8).toNat ≤ 69 ∧ s.rxq.length < (69#8).toNat ∧ 1#32 ≠ 0#32 := by decide
/-- The last byte at the limit completes; one short at the limit times out; one short just before it yields. -/
theorem witness_ReceiveCheckOrder :
    let w : Window := { need := 8, limit := 100#32, t0 := 0#32, got := echo.take 5, checkedAt := 99#32 }
    let late : State := { base with now := 100#32, rxq := [0x01#8, 0x48#8] }
    let full : State := { base with now := 100#32, rxq := [0x01#8, 0x48#8, 0x0A#8] }
    let early : State := { base with now := 99#32, rxq := [0x01#8, 0x48#8] }
    w.got.length < w.need ∧ w.need ≤ w.got.length + full.rxq.length ∧
      (w.got.length + late.rxq.length < w.need ∧ w.limit.toNat ≤ (late.now - w.t0).toNat) ∧
      w.got.length + early.rxq.length < w.need ∧ (early.now - w.t0).toNat < w.limit.toNat := by decide
theorem witness_OverdueCheckComesBeforeClock :
    overdue.activity = .receiving .command
        { need := 8, limit := 100#32, t0 := 0#32, got := [], checkedAt := 4#32 } ∧
      overdue.params.rxPollMaxMs ≤ (overdue.now - 4#32).toNat ∧ nextTurn overdue = .clock := by decide
/-- The control loop's turn in an open receive; and a check one byte short, one millisecond before its limit. -/
theorem witness_OverdueCheckComesBeforeClock_check :
    let w := windowOf 8 (echo.take 5)
    let s : State := { held .command w [0x01#8, 0x48#8] with now := 103#32 }
    (s.activity = .receiving .command w ∧ nextTurn s = .mlb) ∧ w.got.length + s.rxq.length < w.need ∧
      (s.now - w.t0).toNat < w.limit.toNat := by decide
theorem witness_StepKeepsReceiveTiming : TimingOk overdue ∧ ∃ t, step overdue = .next t :=
  ⟨timingOk_of rfl (by decide) (by decide), _, rfl⟩
theorem witness_ReceiveNeverEndsOutsideItsBand :
    TimingOk overdue ∧ (∃ w, overdue.activity = .receiving .command w ∧
      w.limit.toNat + overdue.params.rxPollMaxMs < 2 ^ 32) ∧
      ∃ w, timingOut.activity = .receiving .command w ∧ TimingOk timingOut ∧
        w.limit.toNat + timingOut.params.rxPollMaxMs < 2 ^ 32 ∧ checkWindow w timingOut = .timeout :=
  ⟨timingOk_of rfl (by decide) (by decide), ⟨_, rfl, by decide⟩,
    _, rfl, timingOk_of rfl (by decide) (by decide), by decide, by decide⟩
/-- With the premise of the silent line: the one step to the receive's end is the control loop's. -/
theorem witness_ReceiveNeverEndsOutsideItsBand_silent :
    StateOk timingOut ∧ TimingOk timingOut ∧ ParamsOk timingOut ∧
      (∃ w, timingOut.activity = .receiving .command w ∧
        w.limit.toNat + timingOut.params.rxPollMaxMs < 2 ^ 32 ∧ w.got.length + timingOut.rxq.length < w.need) ∧
      silentFor 1 timingOut ∧ ∃ t, steps 1 timingOut = .next t ∧ t.activity = .none := by
  refine ⟨stateOk_timingOut, timingOk_of rfl (by decide) (by decide), paramsOk_timingOut,
    ⟨_, rfl, by decide, by decide⟩, ?_, _, rfl, rfl⟩
  intro j u hj hu
  obtain rfl : j = 0 := by omega
  injection hu with hu
  subst hu
  constructor <;> intro _ h <;> cases h
theorem witness_WsrSendsRequestAndJudgesResponse : echo.length = 8 ∧ roomFor 8 base :=
  ⟨rfl, room_base 8 (by decide)⟩
/-- The eight bytes and one more at the end of the send. -/
theorem witness_WsrSendsRequestAndJudgesResponse_first :
    SendOverWith (.wsr 1#8 0#16 1#16 .host) (echo ++ [0x55#8])
      (drained (.wsr 1#8 0#16 1#16 .host) (echo ++ [0x55#8])) := ⟨⟨rfl, rfl, rfl⟩, rfl⟩
/-- Seven bytes at the end of the send, with a limit and with none; and the eighth after a yield. -/
theorem witness_WsrSendsRequestAndJudgesResponse_later :
    let s := drained (.wsr 1#8 0#16 1#16 .host) (echo.take 7)
    (SendOver (.wsr 1#8 0#16 1#16 .host) s ∧ s.rxq.length < 8 ∧ s.cfg.writeTimeoutMs ≠ 0#32) ∧
      (SendOver (.wsr 1#8 0#16 1#16 .host) (noLimit s) ∧ (noLimit s).rxq.length < 8 ∧
        (noLimit s).cfg.writeTimeoutMs = 0#32) ∧
      Arrived 8 (echo ++ []) (windowOf 8 (echo.take 7))
        (held (.wsr 1#8 0#16 1#16 .host) (windowOf 8 (echo.take 7)) [0x0A#8]) :=
  ⟨⟨⟨rfl, rfl, rfl⟩, by decide, by decide⟩, ⟨⟨rfl, rfl, rfl⟩, by decide, rfl⟩, rfl, by decide, rfl⟩
theorem witness_WsrIsOkExactlyOnEcho :
    echo.length = 8 ∧ wsrVerdict 1#8 0#16 1#16 echo = .ok ∧
      echo = (buildWriteFrame 1#8 0#16 1#16).toList := by decide
theorem witness_RhrCountOutOfRangeIsRefused : (0#16).toNat < 1 ∧ 32 < (33#16).toNat := by decide
/-- The smallest count and the largest. -/
theorem witness_RhrReadsRegisters :
    (1 ≤ (1#16).toNat ∧ (1#16).toNat ≤ 32 ∧ [0x12#8, 0x34#8].length = 2 * (1#16).toNat ∧
      roomFor (2 * (1#16).toNat + 5) base) ∧
      1 ≤ (32#16).toNat ∧ (32#16).toNat ≤ 32 ∧ (List.replicate 64 0#8).length = 2 * (32#16).toNat ∧
        roomFor (2 * (32#16).toNat + 5) base :=
  ⟨⟨by decide, by decide, rfl, room_base _ (by decide)⟩, by decide, by decide, rfl, room_base _ (by decide)⟩
/-- Two header bytes at the end of the send, with a limit and with none; then the header's last byte with one body
byte too few after it, with a limit and with none. -/
theorem witness_RhrReadsRegisters_windows :
    let s := drained (.rhr 1#8 6#16 .host) (response.take 2)
    let short := (response.drop 3).take 13
    let h := held (.header 1#8 6#16 .host) (windowOf 3 (response.take 2)) (0x0C#8 :: short)
    (SendOver (.rhr 1#8 6#16 .host) s ∧ s.rxq.length < 3 ∧ s.cfg.readTimeoutMs ≠ 0#32) ∧
      (SendOver (.rhr 1#8 6#16 .host) (noLimit s) ∧ (noLimit s).rxq.length < 3 ∧
        (noLimit s).cfg.readTimeoutMs = 0#32) ∧
      (Arrived 3 (0x01#8 :: 0x03#8 :: 0x0C#8 :: short) (windowOf 3 (response.take 2)) h ∧
        h.cfg.readTimeoutMs ≠ 0#32) ∧
      (Arrived 3 (0x01#8 :: 0x03#8 :: 0x0C#8 :: short) (windowOf 3 (response.take 2)) (noLimit h) ∧
        (noLimit h).cfg.readTimeoutMs = 0#32) ∧
      (0x0C#8).toNat = 2 * (6#16).toNat ∧ short.length < 2 * (6#16).toNat + 2 :=
  ⟨⟨⟨rfl, rfl, rfl⟩, by decide, by decide⟩, ⟨⟨rfl, rfl, rfl⟩, by decide, rfl⟩,
    ⟨⟨rfl, by decide, rfl⟩, by decide⟩, ⟨⟨rfl, by decide, rfl⟩, rfl⟩, by decide, by decide⟩
/-- At the end of the send: a header and one body byte too few, with a limit and with none; and the response R and one
more byte. -/
theorem witness_RhrReadsRegisters_first :
    let short := (response.drop 3).take 13
    let s := drained (.rhr 1#8 6#16 .host) (0x01#8 :: 0x03#8 :: 0x0C#8 :: short)
    (SendOverWith (.rhr 1#8 6#16 .host) (0x01#8 :: 0x03#8 :: 0x0C#8 :: short) s ∧ s.cfg.readTimeoutMs ≠ 0#32) ∧
      (SendOverWith (.rhr 1#8 6#16 .host) (0x01#8 :: 0x03#8 :: 0x0C#8 :: short) (noLimit s) ∧
        (noLimit s).cfg.readTimeoutMs = 0#32) ∧
      (0x0C#8).toNat = 2 * (6#16).toNat ∧ short.length < 2 * (6#16).toNat + 2 ∧
      SendOverWith (.rhr 1#8 6#16 .host) (response ++ [0x55#8])
        (drained (.rhr 1#8 6#16 .host) (response ++ [0x55#8])) :=
  ⟨⟨⟨⟨rfl, rfl, rfl⟩, rfl⟩, by decide⟩, ⟨⟨⟨rfl, rfl, rfl⟩, rfl⟩, rfl⟩, by decide, by decide, ⟨rfl, rfl, rfl⟩, rfl⟩
/-- The response R, and one more byte, completed after a yield in the header, and in the body. -/
theorem witness_RhrReadsRegisters_later :
    response = responseFrame 1#8 ((response.drop 3).take 12) ∧
      ((response.drop 3).take 12).length = 2 * (6#16).toNat ∧
      Arrived 3 (response ++ [0x55#8]) (windowOf 3 (response.take 2))
        (held (.header 1#8 6#16 .host) (windowOf 3 (response.take 2)) (response.drop 2 ++ [0x55#8])) ∧
      Arrived (2 * (6#16).toNat + 2) (response.drop 3 ++ [0x55#8]) (windowOf 14 ((response.drop 3).take 13))
        (held (.body 6#16 (response.take 3) .host) (windowOf 14 ((response.drop 3).take 13)) [0x17#8, 0x55#8]) :=
  ⟨by decide, rfl, ⟨rfl, by decide, rfl⟩, rfl, by decide, rfl⟩
/-- Another address, another function code, another byteCount. -/
theorem witness_RhrHeaderErrorsEndTheExchange :
    1 ≤ (6#16).toNat ∧ (6#16).toNat ≤ 32 ∧ roomFor (3 + [0xC0#8, 0xF1#8].length) base ∧
      BadHeader 1#8 6#16 0x02#8 0x03#8 0x0C#8 ∧ BadHeader 1#8 6#16 0x01#8 0x83#8 0x02#8 ∧
      BadHeader 1#8 6#16 0x01#8 0x03#8 0x0A#8 ∧
      SendOverWith (.rhr 1#8 6#16 .host) (0x01#8 :: 0x83#8 :: 0x02#8 :: [0xC0#8, 0xF1#8])
        (drained (.rhr 1#8 6#16 .host) [0x01#8, 0x83#8, 0x02#8, 0xC0#8, 0xF1#8]) ∧
      Arrived 3 (0x01#8 :: 0x83#8 :: 0x02#8 :: [0xC0#8, 0xF1#8]) (windowOf 3 [0x01#8])
        (held (.header 1#8 6#16 .host) (windowOf 3 [0x01#8]) [0x83#8, 0x02#8, 0xC0#8, 0xF1#8]) :=
  ⟨by decide, by decide, room_base _ (by decide), .inl (by decide), .inr (.inl (by decide)),
    .inr (.inr (by decide)), ⟨⟨rfl, rfl, rfl⟩, rfl⟩, rfl, by decide, rfl⟩
theorem witness_RhrCrcMismatch :
    1 ≤ (1#16).toNat ∧ (1#16).toNat ≤ 32 ∧ (0x02#8).toNat = 2 * (1#16).toNat ∧
      [0x12#8, 0x34#8, 0#8, 0#8].length = 2 * (1#16).toNat + 2 ∧ roomFor (2 * (1#16).toNat + 5) base ∧
      crcOk (0x01#8 :: 0x03#8 :: 0x02#8 :: [0x12#8, 0x34#8, 0#8, 0#8]) = false ∧
      Arrived [0x12#8, 0x34#8, 0#8, 0#8].length ([0x12#8, 0x34#8, 0#8, 0#8] ++ []) (windowOf 4 [0x12#8])
        (held (.body 1#16 [0x01#8, 0x03#8, 0x02#8] .host) (windowOf 4 [0x12#8]) [0x34#8, 0#8, 0#8]) :=
  ⟨by decide, by decide, by decide, rfl, room_base _ (by decide), by decide, rfl, by decide, rfl⟩
/-- A wrong CRC, and one more byte, at the end of the send, and completed after a yield in the header. -/
theorem witness_RhrCrcMismatch_header :
    (0x02#8).toNat = 2 * (1#16).toNat ∧ (wrongCrc.drop 3).length = 2 * (1#16).toNat + 2 ∧
      crcOk (0x01#8 :: 0x03#8 :: 0x02#8 :: wrongCrc.drop 3) = false ∧
      SendOverWith (.rhr 1#8 1#16 .host) (0x01#8 :: 0x03#8 :: 0x02#8 :: (wrongCrc.drop 3 ++ [0x55#8]))
        (drained (.rhr 1#8 1#16 .host) (wrongCrc ++ [0x55#8])) ∧
      Arrived 3 (0x01#8 :: 0x03#8 :: 0x02#8 :: (wrongCrc.drop 3 ++ [0x55#8])) (windowOf 3 [0x01#8])
        (held (.header 1#8 1#16 .host) (windowOf 3 [0x01#8]) (wrongCrc.drop 1 ++ [0x55#8])) :=
  ⟨by decide, rfl, by decide, ⟨⟨rfl, rfl, rfl⟩, rfl⟩, rfl, by decide, rfl⟩
theorem witness_RhrAcceptsOnlyItsResponse :
    (response.take 3).length = 3 ∧ (6#16).toNat ≤ 32 ∧ (response.drop 3).length = 2 * (6#16).toNat + 2 ∧
      headerVerdict 1#8 6#16 (response.take 3) = .ok ∧ crcOk (response.take 3 ++ response.drop 3) = true := by
  decide
theorem witness_ExchangeTimesOut :
    ∃ w, (bodyLate .host).activity = .receiving (.body 6#16 [0x01#8, 0x03#8, 0x0C#8] .host) w ∧
      nextTurn (bodyLate .host) = .mlb ∧ WindowOver w (bodyLate .host) := ⟨_, rfl, rfl, by decide, by decide⟩
theorem witness_FailedPollKeepsSession :
    ∃ w, (bodyLate .fsm).activity = .receiving (.body 6#16 [0x01#8, 0x03#8, 0x0C#8] .fsm) w ∧
      nextTurn (bodyLate .fsm) = .mlb ∧ WindowOver w (bodyLate .fsm) := ⟨_, rfl, rfl, by decide, by decide⟩
/-- A wrong byteCount and a wrong CRC after a yield; and a turn that ends the poll, here by a function code. -/
theorem witness_FailedPollKeepsSession_errors :
    let bad := drained (.rhr 1#8 6#16 .fsm) [0x01#8, 0x83#8, 0x02#8, 0xC0#8, 0xF1#8]
    (Arrived 3 (0x01#8 :: 0x03#8 :: 0x0A#8 :: []) (windowOf 3 [0x01#8])
        (held (.header 1#8 6#16 .fsm) (windowOf 3 [0x01#8]) [0x03#8, 0x0A#8]) ∧
      BadHeader 1#8 6#16 0x01#8 0x03#8 0x0A#8) ∧
      (Arrived (List.replicate 14 0#8).length (List.replicate 14 0#8 ++ []) (windowOf 14 [])
          (held (.body 6#16 (response.take 3) .fsm) (windowOf 14 []) (List.replicate 14 0#8)) ∧
        crcOk (response.take 3 ++ List.replicate 14 0#8) = false) ∧
      pollInProgress bad.activity = true ∧ nextTurn bad = .mlb ∧
      after (step bad) (fun u => (u.activity, u.res)) = some (.none, .error .addressOrFunctionMismatch) :=
  ⟨⟨⟨rfl, by decide, rfl⟩, .inr (.inr (by decide))⟩, ⟨⟨rfl, by decide, rfl⟩, by decide⟩, rfl, rfl, by decide⟩
/-- No limit, and too few bytes: of the header, and of the body at the end of the send and after a yield. -/
theorem witness_FailedPollKeepsSession_noLimit :
    let s := noLimit (drained (.rhr 1#8 6#16 .fsm) [0x01#8, 0x03#8])
    let b := noLimit (drained (.rhr 1#8 6#16 .fsm) [0x01#8, 0x03#8, 0x0C#8, 0x00#8])
    let h := noLimit (held (.header 1#8 6#16 .fsm) (windowOf 3 [0x01#8, 0x03#8]) [0x0C#8, 0x00#8])
    (s.cfg.readTimeoutMs = 0#32 ∧ SendOver (.rhr 1#8 6#16 .fsm) s ∧ s.rxq.length < 3) ∧
      (b.cfg.readTimeoutMs = 0#32 ∧ SendOverWith (.rhr 1#8 6#16 .fsm) (0x01#8 :: 0x03#8 :: 0x0C#8 :: [0x00#8]) b) ∧
      (h.cfg.readTimeoutMs = 0#32 ∧
        Arrived 3 (0x01#8 :: 0x03#8 :: 0x0C#8 :: [0x00#8]) (windowOf 3 [0x01#8, 0x03#8]) h) ∧
      (0x0C#8).toNat = 2 * (6#16).toNat ∧ [0x00#8].length < 2 * (6#16).toNat + 2 :=
  ⟨⟨rfl, ⟨rfl, rfl, rfl⟩, by decide⟩, ⟨rfl, ⟨rfl, rfl, rfl⟩, rfl⟩, ⟨rfl, rfl, by decide, rfl⟩, by decide, by decide⟩
/-- A wrong function code, and a wrong CRC, at the end of the send; and the wrong CRC after a yield in the header. -/
theorem witness_FailedPollKeepsSession_first :
    SendOverWith (.rhr 1#8 6#16 .fsm) (0x01#8 :: 0x83#8 :: 0x02#8 :: [0xC0#8, 0xF1#8])
        (drained (.rhr 1#8 6#16 .fsm) [0x01#8, 0x83#8, 0x02#8, 0xC0#8, 0xF1#8]) ∧
      BadHeader 1#8 6#16 0x01#8 0x83#8 0x02#8 ∧
      ((0x02#8).toNat = 2 * (1#16).toNat ∧ (wrongCrc.drop 3).length = 2 * (1#16).toNat + 2 ∧
        crcOk (0x01#8 :: 0x03#8 :: 0x02#8 :: wrongCrc.drop 3) = false) ∧
      SendOverWith (.rhr 1#8 1#16 .fsm) (0x01#8 :: 0x03#8 :: 0x02#8 :: (wrongCrc.drop 3 ++ []))
        (drained (.rhr 1#8 1#16 .fsm) wrongCrc) ∧
      Arrived 3 (0x01#8 :: 0x03#8 :: 0x02#8 :: (wrongCrc.drop 3 ++ [])) (windowOf 3 [0x01#8])
        (held (.header 1#8 1#16 .fsm) (windowOf 3 [0x01#8]) (wrongCrc.drop 1)) :=
  ⟨⟨⟨rfl, rfl, rfl⟩, rfl⟩, .inr (.inl (by decide)), ⟨by decide, rfl, by decide⟩, ⟨⟨rfl, rfl, rfl⟩, rfl⟩, rfl,
    by decide, rfl⟩
theorem witness_UnauthorizedCardIsRejected : base.fsm = .idle := rfl
theorem witness_EventsIgnoredByState : polling.fsm ≠ .idle ∧ base.fsm = .idle := by decide
theorem witness_AuthorizedCardStartsSession : base.fsm = .idle ∧ roomFor 8 base :=
  ⟨rfl, room_base 8 (by decide)⟩
/-- The echo and one more byte at the end of the send. -/
theorem witness_AuthorizedCardStartsSession_first :
    let s : State := { drained (.wsr 1#8 0#16 1#16 .fsm) (echo ++ [0x55#8]) with
      fsm := .sessionStarting, pending := some (c1, plateP) }
    s.pending = some (c1, plateP) ∧
      SendOverWith (.wsr 1#8 0#16 1#16 .fsm) ((buildWriteFrame 1#8 0#16 1#16).toList ++ [0x55#8]) s :=
  ⟨rfl, ⟨rfl, rfl, rfl⟩, by decide⟩
/-- The last byte of the echo comes after a yield. -/
theorem witness_AuthorizedCardStartsSession_later :
    let s : State := { held (.wsr 1#8 0#16 1#16 .fsm) (windowOf 8 (echo.take 7)) [0x0A#8] with
      fsm := .sessionStarting, pending := some (c1, plateP) }
    s.pending = some (c1, plateP) ∧
      Arrived 8 ((buildWriteFrame 1#8 0#16 1#16).toList ++ []) (windowOf 8 (echo.take 7)) s :=
  ⟨rfl, rfl, by decide, by decide⟩
theorem witness_FailedStartReturnsToIdle :
    base.fsm = .idle ∧ roomFor 8 base ∧ wrongEcho.length = 8 ∧
      wrongEcho ≠ (buildWriteFrame base.cfg.slaveAddress 0#16 1#16).toList :=
  ⟨rfl, room_base 8 (by decide), rfl, by decide⟩
/-- Eight wrong bytes and one more at the end of the send; and none there, with no window. -/
theorem witness_FailedStartReturnsToIdle_first :
    wrongEcho ≠ (buildWriteFrame 1#8 0#16 1#16).toList ∧
      SendOverWith (.wsr 1#8 0#16 1#16 .fsm) (wrongEcho ++ [0x55#8])
        (drained (.wsr 1#8 0#16 1#16 .fsm) (wrongEcho ++ [0x55#8])) ∧
      SendOver (.wsr 1#8 0#16 1#16 .fsm) (noLimit (drained (.wsr 1#8 0#16 1#16 .fsm) [])) ∧
      (noLimit (drained (.wsr 1#8 0#16 1#16 .fsm) [])).cfg.writeTimeoutMs = 0#32 :=
  ⟨by decide, ⟨⟨rfl, rfl, rfl⟩, rfl⟩, ⟨rfl, rfl, rfl⟩, rfl⟩
/-- Eight wrong bytes completed after a yield; a window over at its limit; and a turn that ends the start. -/
theorem witness_FailedStartReturnsToIdle_later :
    let late : State := { held (.wsr 1#8 0#16 1#16 .fsm) (windowOf 8 (echo.take 7)) [] with now := 104#32 }
    let bad := drained (.wsr 1#8 0#16 1#16 .fsm) wrongEcho
    (wrongEcho ≠ (buildWriteFrame 1#8 0#16 1#16).toList ∧
      Arrived 8 (wrongEcho ++ []) (windowOf 8 (wrongEcho.take 7))
        (held (.wsr 1#8 0#16 1#16 .fsm) (windowOf 8 (wrongEcho.take 7)) [0x0B#8])) ∧
      (late.activity = .receiving (.wsr 1#8 0#16 1#16 .fsm) (windowOf 8 (echo.take 7)) ∧ nextTurn late = .mlb ∧
        WindowOver (windowOf 8 (echo.take 7)) late) ∧
      startInProgress bad.activity = true ∧ nextTurn bad = .mlb ∧
      after (step bad) (fun u => (u.activity, u.res)) = some (.none, .error .echoMismatch) :=
  ⟨⟨by decide, rfl, by decide, rfl⟩, ⟨rfl, rfl, by decide, by decide⟩, rfl, rfl, by decide⟩
/-- Each clause one millisecond before its limit, and the last at it. -/
theorem witness_TickWithoutExchange :
    let active : State := { base with fsm := .sessionActive, lastPollMs := 1000#32, now := 1299#32 }
    let early : State := { base with fsm := .sessionClosing, closeMs := 1000#32, now := 3999#32 }
    let ended : State := { base with fsm := .sessionClosing, closeMs := 1000#32, now := 4000#32 }
    ({ base with fsm := .sessionStarting } : State).fsm = .sessionStarting ∧
      (active.fsm = .sessionActive ∧ active.seedPending = false ∧
      (active.now - active.lastPollMs).toNat < active.cfg.pollIntervalMs.toNat) ∧
      (early.fsm = .sessionClosing ∧ (early.now - early.closeMs).toNat < early.cfg.summaryDisplayMs.toNat) ∧
      ended.fsm = .sessionClosing ∧ ended.cfg.summaryDisplayMs.toNat ≤ (ended.now - ended.closeMs).toNat := by
  decide
/-- The seed poll, and a poll at its interval. -/
theorem witness_DuePollTakesReading :
    (({ base with fsm := .sessionActive, seedPending := true } : State).fsm = .sessionActive ∧
      ({ base with fsm := .sessionActive, seedPending := true } : State).seedPending = true) ∧
      300 ≤ ((1300#32 : Ms) - 1000#32).toNat ∧ roomFor 17 base :=
  ⟨⟨rfl, rfl⟩, by decide, room_base 17 (by decide)⟩
/-- The response R and one more byte at the end of the send. -/
theorem witness_DuePollTakesReading_first :
    SendOverWith (.rhr 1#8 6#16 .fsm) (responseFrame 1#8 ((response.drop 3).take 12) ++ [0x55#8])
      (drained (.rhr 1#8 6#16 .fsm) (response ++ [0x55#8])) := ⟨⟨rfl, rfl, rfl⟩, by decide⟩
/-- The response R completed after a yield in the header, and in the body. -/
theorem witness_DuePollTakesReading_later :
    Arrived 3 (responseFrame 1#8 ((response.drop 3).take 12) ++ []) (windowOf 3 (response.take 2))
        (held (.header 1#8 6#16 .fsm) (windowOf 3 (response.take 2)) (response.drop 2)) ∧
      Arrived 14 ((responseFrame 1#8 ((response.drop 3).take 12)).drop 3 ++ [])
        (windowOf 14 ((response.drop 3).take 13))
        (held (.body 6#16 [0x01#8, 0x03#8, 0x0C#8] .fsm) (windowOf 14 ((response.drop 3).take 13)) [0x17#8]) :=
  ⟨⟨rfl, by decide, by decide⟩, rfl, by decide, by decide⟩
/-- The sequences of section 1.5. -/
theorem witness_SessionClosesOnceOnTheFallingEdge :
    let on : MeterReading := { status := 0x0003#16, sessionCl := 520#32, totalCl := 0#32, flowClPerMin := 0#16 }
    let off : MeterReading := { status := 0x0001#16, sessionCl := 1175#32, totalCl := 0#32, flowClPerMin := 0#16 }
    let s : State := { base with fsm := .sessionActive }
    s.fsm = .sessionActive ∧ s.prevActive = false ∧ (∀ m ∈ [off, off, off, off], m.status.getLsbD 1 = false) ∧
      [on, on, on] ≠ [] ∧ (∀ m ∈ [on, on, on], m.status.getLsbD 1 = true) ∧ off.status.getLsbD 1 = false := by
  decide
theorem witness_SessionMovesAreTheTables :
    StateOk cardWaiting ∧ ¬resetTurn cardWaiting ∧ ∃ t, step cardWaiting = .next t :=
  ⟨stateOk_cardWaiting, not_resetTurn_of rfl, _, rfl⟩
theorem witness_RequestFramesAreSent :
    encode (.wreq 1#8 0#16 1#16 0x0A48#16) = .outbound echo ∧
      ({ base with txValid := true, txBuf := buildWriteFrame 1#8 0#16 1#16 } : State).txBuf.toList = echo := by
  decide
theorem witness_LineDeliversAnyBytes :
    nextTurn { base with agenda := [.deliver [0x55#8]] } = .deliver [0x55#8] := rfl
/-- A full buffer, and one with room for exactly the bytes. -/
theorem witness_FullReceiveBufferLosesBytes :
    fits (some 2) [0xAA#8, 0xBB#8].length ∧ fits (some 2) ([0xAA#8].length + [0xBB#8].length) :=
  ⟨by intro c h; cases h; decide, by intro c h; cases h; decide⟩
theorem witness_ResetLeavesTheResetValues :
    ∃ r : ResetInput, r.now = 7#32 ∧ nextTurn { polling with agenda := [.reset r] } = .reset r :=
  ⟨{ cfg := base.cfg, now := 7#32, rxq := [0x55#8], txBuf := base.txBuf, rxBuf := base.rxBuf, regs := base.regs,
     lastPollMs := 9#32, closeMs := 9#32, port := [] }, rfl, rfl⟩
theorem witness_StepKeepsStateConsistent : StateOk polling ∧ ∃ t, step polling = .next t :=
  ⟨stateOk_polling, _, rfl⟩
theorem witness_ConsistentStateNeverStops : StateOk polling := stateOk_polling
theorem witness_StepRunsDecodedCommand :
    cardWaiting.activity = .none ∧ cardWaiting.busy = false ∧ nextTurn cardWaiting = .mlb ∧
      cardWaiting.port = cardCommand :: [] ∧ decodeCommand cardCommand = .ok (.evCard c1 (some plateP)) :=
  ⟨rfl, rfl, rfl, rfl, by decide⟩
theorem witness_StepRunsPlacedTableWord :
    decodeTableWord 64 0x0000000000000102 = some (.crcByte 1#8) ∧
      decodeTableWord 24 0x010300 = some (.rrsp 1#8 [] 0#16) ∧
      decodeTableWord 64 0x010600000001480A = some (.wreq 1#8 0#16 1#16 0x0A48#16) := by decide
theorem witness_BusyHoldsWaitingCommands :
    nextTurn { polling with agenda := [.present cardCommand] } = .present cardCommand ∧
      polling.busy = true ∧ ¬resetTurn polling ∧ ∃ t, step polling = .next t :=
  ⟨rfl, rfl, not_resetTurn_of rfl, _, rfl⟩
theorem witness_LogsOnlyGrow :
    ¬resetTurn cardWaiting ∧ (∃ t, step cardWaiting = .next t) ∧
      ({ cardWaiting with refused := true } : State).refused = true :=
  ⟨not_resetTurn_of rfl, ⟨_, rfl⟩, rfl⟩
/-- The clock's turn one millisecond before the check of an open receive is overdue; and a step. -/
theorem witness_OnlyTheirOwnersWriteRegisters :
    let early : State := { overdue with now := 8#32 }
    (nextTurn early = .clock ∧ checkOverdue early = false) ∧ ¬resetTurn cardWaiting ∧
      ∃ t, step cardWaiting = .next t :=
  ⟨⟨rfl, by decide⟩, not_resetTurn_of rfl, _, rfl⟩
theorem witness_NothingIsPushedWhileBusy :
    polling.busy = true ∧ ¬resetTurn polling ∧ ∃ t, step polling = .next t :=
  ⟨rfl, not_resetTurn_of rfl, _, rfl⟩

end Sys2Proof.Tests
end

section
/-! SUPPORT. The CRC-16 generator's steps lose no information: each is injective in the accumulator, and the byte
step also in the byte. So two sequences that differ in one byte have different CRCs. -/

namespace Sys2Proof.Proofs.Crc

open Sys2Proof Sys2Proof.Machine Sys2Proof.Safety

theorem bitstep_of_one {c : Word} (h : c.getLsbD 0 = true) : bitstep c = (c >>> 1) ^^^ 0xA001#16 := by
  rw [bitstep, if_pos h, poly]

theorem bitstep_of_zero {c : Word} (h : c.getLsbD 0 = false) : bitstep c = c >>> 1 := by
  rw [bitstep, if_neg (h ▸ Bool.false_ne_true)]

/-- The bit shifted out stays readable: POLY has its top bit set, where the shift leaves a 0 (R60, R61). -/
theorem bitstep_getLsbD_top (c : Word) : (bitstep c).getLsbD 15 = c.getLsbD 0 := by
  cases h : c.getLsbD 0 with
  | true => simp [bitstep_of_one h]
  | false => simp [bitstep_of_zero h]

/-- A word is its lowest bit and the rest. -/
theorem eq_of_lowBit_of_shift {c d : Word} (hlow : c.getLsbD 0 = d.getLsbD 0) (hrest : c >>> 1 = d >>> 1) :
    c = d := by
  refine BitVec.eq_of_getLsbD_eq fun k _ => ?_
  cases k with
  | zero => exact hlow
  | succ k =>
    have hbit := congrArg (·.getLsbD k) hrest
    simpa [Nat.add_comm] using hbit

theorem bitstep_injective : Function.Injective bitstep := by
  intro c d h
  have hlow : c.getLsbD 0 = d.getLsbD 0 := by
    rw [← bitstep_getLsbD_top c, ← bitstep_getLsbD_top d, h]
  refine eq_of_lowBit_of_shift hlow ?_
  cases hd : d.getLsbD 0 with
  | true =>
    rw [bitstep_of_one (hlow.trans hd), bitstep_of_one hd] at h
    exact (BitVec.xor_left_inj _).mp h
  | false => rwa [bitstep_of_zero (hlow.trans hd), bitstep_of_zero hd] at h

theorem bitsteps_injective (n : Nat) : Function.Injective (bitsteps n) := by
  induction n with
  | zero => exact Function.injective_id
  | succ n ih => exact ih.comp bitstep_injective

theorem bytestep_accumulator_inj {c d : Word} {b : Byte} : bytestep c b = bytestep d b ↔ c = d :=
  (bitsteps_injective 8).eq_iff.trans (BitVec.xor_left_inj _)

theorem bytestep_byte_inj {c : Word} {a b : Byte} : bytestep c a = bytestep c b ↔ a = b := by
  refine ⟨fun h => ?_, congrArg _⟩
  have hwide : a.setWidth 16 = b.setWidth 16 := (BitVec.xor_right_inj _).mp (bitsteps_injective 8 h)
  simpa using congrArg (BitVec.setWidth 8) hwide

theorem foldl_bytestep_inj {c d : Word} {s : List Byte} : s.foldl bytestep c = s.foldl bytestep d ↔ c = d := by
  induction s generalizing c d with
  | nil => rfl
  | cons b s ih => exact ih.trans bytestep_accumulator_inj

/-- Two sequences that differ at most in one byte have the same CRC only if they agree in that byte too. -/
theorem crc16_byte_inj {p q : List Byte} {a b : Byte} : crc16 (p ++ a :: q) = crc16 (p ++ b :: q) ↔ a = b := by
  rw [crc16_append, crc16_append, List.foldl_cons, List.foldl_cons, foldl_bytestep_inj, bytestep_byte_inj]

/-! Flipping a bit (R66). -/

theorem flipped_ne {k : Nat} (hk : k < 8) (b : Byte) : b ^^^ (1#8 <<< k) ≠ b := by
  intro h
  have hbit := congrArg (·.getLsbD k) h
  simp [hk] at hbit

theorem flipBit_append_left {i : Nat} (k : Nat) {p : List Byte} (q : List Byte) (h : i < p.length) :
    flipBit i k (p ++ q) = flipBit i k p ++ q := by
  simp [flipBit, h, List.getElem?_append_left]

theorem flipBit_append_right {i : Nat} (k : Nat) {p : List Byte} (q : List Byte) (h : p.length ≤ i) :
    flipBit i k (p ++ q) = p ++ flipBit (i - p.length) k q := by
  simp [flipBit, h, List.getElem?_append_right]

theorem crc16_flipBit_ne {i k : Nat} {B : List Byte} (hi : i < B.length) (hk : k < 8) :
    crc16 (flipBit i k B) ≠ crc16 B := by
  have hB : B = B.take i ++ B[i] :: B.drop (i + 1) := by simp
  have hflip : flipBit i k B = B.take i ++ (B[i] ^^^ (1#8 <<< k)) :: B.drop (i + 1) := by
    simp [flipBit, hi, List.set_eq_take_append_cons_drop]
  rw [hflip]
  conv_rhs => rw [hB]
  exact fun h => flipped_ne hk _ (crc16_byte_inj.mp h)

theorem u16_eq_iff {hi lo : Byte} {w : Word} : u16 hi lo = w ↔ hi = hiByte w ∧ lo = loByte w := by
  constructor
  · rintro rfl; simp
  · rintro ⟨rfl, rfl⟩; simp

/-- Settles O8. A flip within B changes the computed CRC; a flip within the CRC field changes the received one. -/
theorem singleBitFlipFailsCheck : Obligations.SingleBitFlipFailsCheck := by
  intro B i k hi hk
  change crcOk (flipBit i k (B ++ [loByte (crc16 B), hiByte (crc16 B)])) = false
  by_cases hin : i < B.length
  · rw [flipBit_append_left k _ hin, crcOk_field, u16_hiByte_loByte, beq_eq_false_iff_ne]
    exact (crc16_flipBit_ne hin hk).symm
  · rw [flipBit_append_right k _ (Nat.le_of_not_lt hin)]
    obtain hlow | hhigh : i - B.length = 0 ∨ i - B.length = 1 := by omega
    · rw [hlow]
      change crcOk (B ++ [loByte (crc16 B) ^^^ (1#8 <<< k), hiByte (crc16 B)]) = false
      rw [crcOk_field, beq_eq_false_iff_ne]
      exact fun h => flipped_ne hk _ (u16_eq_iff.mp h).2
    · rw [hhigh]
      change crcOk (B ++ [loByte (crc16 B), hiByte (crc16 B) ^^^ (1#8 <<< k)]) = false
      rw [crcOk_field, beq_eq_false_iff_ne]
      exact fun h => flipped_ne hk _ (u16_eq_iff.mp h).1

/-! The generator's commands (R67, R68). -/

theorem exec_crcInit (s : State) : exec .crcInit s = .next (setCrc seed s) := rfl

theorem exec_crcByte (d : Byte) (s : State) : exec (.crcByte d) s = .next (setCrc (bytestep s.crcReg d) s) := rfl

@[simp] theorem setCrc_setCrc (c d : Word) (s : State) : setCrc d (setCrc c s) = setCrc d s := rfl

theorem decodeCommand_crcInit_word : decodeCommand (plainCommand (wordOp 0x01#8)) = .ok .crcInit := by
  simp [decodeCommand, plainCommand, ifReservedZero]

theorem decodeCommand_crcByte_word (d : Byte) :
    decodeCommand (plainCommand (wordByte 0x02#8 d)) = .ok (.crcByte d) := by
  simp [decodeCommand, plainCommand, ifReservedZero]

/-- Settles O1. A second CRC_INIT writes the seed over the seed. -/
theorem crcInitSetsSeed : Obligations.CrcInitSetsSeed := by
  refine ⟨decodeCommand_crcInit_word, fun s => ⟨exec_crcInit s, fun t h => ?_⟩⟩
  rw [exec_crcInit] at h
  obtain rfl : setCrc seed s = t := by injection h
  rw [exec_crcInit, setCrc_setCrc]

/-- Settles O2: the word is the one `wordByte` builds, and the rule's example is evaluated. -/
theorem crcByteFoldsOneByte : Obligations.CrcByteFoldsOneByte :=
  ⟨decodeCommand_crcByte_word, exec_crcByte, rfl, by decide⟩

/-- Settles O4, by the bit shifted out. -/
theorem bitStepIsTheRule : Obligations.BitStepIsTheRule := by
  intro c
  split
  case isTrue h => exact bitstep_of_one h
  case isFalse h => exact bitstep_of_zero (Bool.eq_false_of_not_eq_true h)

end Sys2Proof.Proofs.Crc
end

section
/-! SUPPORT. A built request frame as a byte sequence: the six bytes its CRC covers, then the CRC field. -/

namespace Sys2Proof.Proofs.FrameCodec

open Sys2Proof Sys2Proof.Machine Sys2Proof.Safety

/-- The shape of both request frames (R47, R49). -/
theorem buildFrame_toList (a fn : Byte) (x y : Word) :
    (buildFrame a fn x y).toList = requestBody a fn x y ++ crcField (crc16 (requestBody a fn x y)) := rfl

theorem buildWriteFrame_toList (a : Byte) (r v : Word) :
    (buildWriteFrame a r v).toList = requestBody a 0x06#8 r v ++ crcField (crc16 (requestBody a 0x06#8 r v)) :=
  buildFrame_toList a 0x06#8 r v

theorem buildReadFrame_toList (a : Byte) (start count : Word) :
    (buildReadFrame a start count).toList =
      requestBody a 0x03#8 start count ++ crcField (crc16 (requestBody a 0x03#8 start count)) :=
  buildFrame_toList a 0x03#8 start count

/-- Settles O9. `requestBody` puts each word's high byte first, `crcField` the CRC's low byte. -/
theorem requestFramesAreTheirBytes : Obligations.RequestFramesAreTheirBytes :=
  fun a x y => ⟨buildWriteFrame_toList a x y, buildReadFrame_toList a x y⟩

end Sys2Proof.Proofs.FrameCodec
end

section
/-! SUPPORT. The counts RHR's range check refuses (R88), and what RHR answers there. -/

namespace Sys2Proof.Proofs.RegisterClient

open Sys2Proof Sys2Proof.Machine Sys2Proof.Safety

theorem countInRange_eq_false_iff {count : Word} :
    countInRange count = false ↔ count.toNat < 1 ∨ 32 < count.toNat := by
  rw [← Bool.not_eq_true, countInRange_iff]
  omega

/-- RHR's second branch (R88): neither `startRhr`, which writes TXBUF and REGCOUNT, nor its send is run. -/
theorem exec_rhr_of_not_countInRange (a : Byte) (start : Word) {count : Word} (s : State)
    (h : countInRange count = false) :
    exec (.rhr a start count) s = .next (refuse .readCountOutOfRange s) := by
  change execRhr a start count s = _
  rw [execRhr, if_neg (h ▸ Bool.false_ne_true)]

/-- Settles O31. A count out of 1..32 is one the range check turns down, and the refusal is the whole effect. -/
theorem rhrCountOutOfRangeIsRefused : Obligations.RhrCountOutOfRangeIsRefused :=
  fun a start _ s hcount => exec_rhr_of_not_countInRange a start s (countInRange_eq_false_iff.mpr hcount)

end Sys2Proof.Proofs.RegisterClient
end

section
/-! SUPPORT. The events the session state machine leaves without effect: each is the branch of its event's routine
that answers the state it was given (R93, R96, R100). -/

namespace Sys2Proof.Proofs.SessionFsm

open Sys2Proof Sys2Proof.Machine Sys2Proof.Safety

/-- The first test of EV_CARD is FSM_STATE, before the lookup is read, so no plate makes a difference. -/
theorem exec_evCard_of_not_idle (id : CardId) (lookup : Option Plate) {s : State} (h : s.fsm ≠ .idle) :
    exec (.evCard id lookup) s = .next s := by
  change execEvCard id lookup s = _
  rw [execEvCard.eq_def, if_neg h]

/-- In Idle there is neither a poll nor a summary window for a tick to look at. -/
theorem exec_evTick_of_idle {s : State} (h : s.fsm = .idle) : exec .evTick s = .next s := by
  change execEvTick s = _
  rw [execEvTick, h]

/-- Settles O38. Both events take the branch that returns the state unchanged. -/
theorem eventsIgnoredByState : Obligations.EventsIgnoredByState :=
  ⟨fun id lookup _ hnotIdle => exec_evCard_of_not_idle id lookup hnotIdle, fun _ hidle => exec_evTick_of_idle hidle⟩

end Sys2Proof.Proofs.SessionFsm
end

section
/-! SUPPORT. The residue of a sequence with its own CRC (40_crc.md sections 2 and 3): where the accumulator's low byte
is the next byte, no POLY term enters and the byte step is a shift. -/

namespace Sys2Proof.Proofs.Crc

open Sys2Proof Sys2Proof.Machine Sys2Proof.Safety

/-- Where the low `n` bits are 0 no bit step adds POLY (R61). -/
theorem bitsteps_of_low_zero {n : Nat} {c : Word} (h : ∀ k < n, c.getLsbD k = false) :
    bitsteps n c = c >>> n := by
  induction n generalizing c with
  | zero => simp [bitsteps]
  | succ n ih =>
    have hrest : ∀ k < n, (c >>> 1).getLsbD k = false := fun k hk => by
      simpa [Nat.add_comm] using h (k + 1) (by omega)
    rw [bitsteps, bitstep_of_zero (h 0 (by omega)), ih hrest, ← BitVec.shiftRight_add, Nat.add_comm]

/-- The byte step on the accumulator's own low byte shifts it out (40_crc.md section 3). -/
theorem bytestep_loByte (c : Word) : bytestep c (loByte c) = c >>> 8 := by
  have hlow : ∀ k < 8, (c ^^^ (loByte c).setWidth 16).getLsbD k = false := fun k hk => by
    simp [loByte, hk, show k < 16 by omega]
  rw [bytestep, bitsteps_of_low_zero hlow]
  ext k hk
  simp [loByte]

theorem loByte_shiftRight_eight (c : Word) : loByte (c >>> 8) = hiByte c := by
  ext k hk
  simp [loByte, hiByte, show k < 16 by omega]

/-- A CRC followed by its own field, low byte first, leaves nothing (40_crc.md section 2). -/
theorem bytestep_crcField (c : Word) : bytestep (bytestep c (loByte c)) (hiByte c) = 0#16 := by
  rw [bytestep_loByte, ← loByte_shiftRight_eight, bytestep_loByte]
  ext k hk
  simp

theorem crc16_append_pair (p : List Byte) (low high : Byte) :
    crc16 (p ++ [low, high]) = bytestep (bytestep (crc16 p) low) high := crc16_append p [low, high]

/-- The residue is 0 exactly where the two bytes are the CRC field. -/
theorem crc16_append_pair_eq_zero_iff {p : List Byte} {low high : Byte} :
    crc16 (p ++ [low, high]) = 0#16 ↔ u16 high low = crc16 p := by
  have hown : bytestep (bytestep (u16 high low) low) high = 0#16 := by
    simpa using bytestep_crcField (u16 high low)
  rw [crc16_append_pair, ← hown, bytestep_accumulator_inj, bytestep_accumulator_inj, eq_comm]

theorem eq_append_pair_of_two_le {f : List Byte} (h : 2 ≤ f.length) : ∃ p low high, f = p ++ [low, high] := by
  have hdrop : (f.drop (f.length - 2)).length = 2 := by simp; omega
  obtain ⟨low, high, he⟩ := List.length_eq_two.mp hdrop
  exact ⟨f.take (f.length - 2), low, high, by rw [← he, List.take_append_drop]⟩

/-- Settles O3. -/
theorem crcByteOfItsLowByteShifts : Obligations.CrcByteOfItsLowByteShifts := by
  rintro d s rfl
  rw [exec_crcByte]
  exact congrArg (fun c => Host.Outcome.next (setCrc c s)) (bytestep_loByte s.crcReg)

/-- Settles O5. The fold over a sequence ends with the step of its last byte. -/
theorem byteStepAndFoldAreAsWritten : Obligations.ByteStepAndFoldAreAsWritten :=
  ⟨fun _ _ => rfl, rfl, fun B b => crc16_append B [b]⟩

theorem execAll_cons_of_next {i : Instr} {is : List Instr} {s t : State} (h : exec i s = .next t) :
    execAll (i :: is) s = execAll is t := by
  simp only [execAll, h]

/-- CRC_BYTE of each byte folds the byte step over the sequence, from whatever CRCREG holds (R68). -/
theorem execAll_map_crcByte (B : List Byte) (s : State) :
    execAll (B.map .crcByte) s = .next (setCrc (B.foldl bytestep s.crcReg) s) := by
  induction B generalizing s with
  | nil => rfl
  | cons b B ih => rw [List.map_cons, execAll_cons_of_next (exec_crcByte b s), ih]; rfl

/-- Settles O6. CRC_INIT puts the seed where the fold starts. -/
theorem crcPseudoCommandComputesCrc16 : Obligations.CrcPseudoCommandComputesCrc16 := by
  intro B s
  rw [pseudoCrc16, execAll_cons_of_next (exec_crcInit s), execAll_map_crcByte]
  rfl

/-- Settles O7. Both checks compare the last two bytes with the CRC of those before them. -/
theorem crcResidueIsZero : Obligations.CrcResidueIsZero := by
  refine ⟨fun B => crc16_append_pair_eq_zero_iff.mpr (u16_hiByte_loByte (crc16 B)), fun f hf => ?_⟩
  obtain ⟨p, low, high, rfl⟩ := eq_append_pair_of_two_le hf
  rw [crcOk_field, beq_iff_eq, crc16_append_pair_eq_zero_iff]

end Sys2Proof.Proofs.Crc
end

section
/-! SUPPORT. The frame codec (41_frame_codec.md): a built frame taken apart, and the registers of a read response. -/

namespace Sys2Proof.Proofs.FrameCodec

open Sys2Proof Sys2Proof.Machine Sys2Proof.Safety

/-- Both request frames carry the CRC of their bytes (R46). -/
theorem crcOk_buildFrame (a fn : Byte) (x y : Word) : crcOk (buildFrame a fn x y).toList = true := by
  rw [buildFrame_toList, crcOk_own]

theorem decodeWrite_buildWriteFrame (a : Byte) (r v : Word) :
    decodeWrite (buildWriteFrame a r v).toList = (a, 0x06#8, r, v) := by
  rw [buildWriteFrame_toList]
  simp [decodeWrite, requestBody]

/-- Settles O10. -/
theorem frameRoundTrip : Obligations.FrameRoundTrip :=
  ⟨decodeWrite_buildWriteFrame, fun a r v => crcOk_buildFrame a 0x06#8 r v,
    fun a start count => crcOk_buildFrame a 0x03#8 start count⟩

theorem exec_buildWrite (a : Byte) (x y : Word) (s : State) :
    exec (.buildWrite a x y) s = .next (loadTx (buildWriteFrame a x y) s) := rfl

theorem exec_buildRead (a : Byte) (x y : Word) (s : State) :
    exec (.buildRead a x y) s = .next (loadTx (buildReadFrame a x y) s) := rfl

/-- Settles O11. Each build command is one `loadTx`, which writes TXBUF and TXVALID. -/
theorem buildCommandsLoadTxbuf : Obligations.BuildCommandsLoadTxbuf :=
  fun a x y s => ⟨exec_buildWrite a x y s, exec_buildRead a x y s⟩

/-- Register k is the pair of bytes 2k and 2k+1, high byte first (R34, R72). -/
theorem decodeRegs_getElem? {n k : Nat} {d : List Byte} (hd : d.length = 2 * n) (hk : k < n) :
    (decodeRegs d)[k]? = some (u16 (d.getD (2 * k) 0#8) (d.getD (2 * k + 1) 0#8)) := by
  induction n generalizing d k with
  | zero => omega
  | succ n ih =>
    match d, hd with
    | [], hd => simp at hd
    | [_], hd => simp at hd; omega
    | hi :: lo :: rest, hd =>
      cases k with
      | zero => rfl
      | succ k =>
        have hrest : rest.length = 2 * n := by simp at hd; omega
        rw [decodeRegs, List.getElem?_cons_succ, ih hrest (by omega)]
        simp [Nat.mul_add]

/-- Settles O12. -/
theorem registersDecodeBigEndianInOrder : Obligations.RegistersDecodeBigEndianInOrder :=
  fun n d hd => ⟨decodeRegs_length n d hd, fun _ hk => decodeRegs_getElem? hd hk⟩

/-- The reading is read off the first six registers stored (R51, R73). -/
theorem decodeReading_regsOf (r0 r1 r2 r3 r4 r5 : Word) (index : Nat) :
    decodeReading (regsOf [r0, r1, r2, r3, r4, r5] index) =
      { status := r0, sessionCl := u32 r1 r2, totalCl := u32 r3 r4, flowClPerMin := r5 } := by
  simp [decodeReading, regsOf_getElem]

/-- Settles O13. -/
theorem pollResponseDecodesToReading : Obligations.PollResponseDecodesToReading :=
  fun _ _ _ _ _ _ _ _ _ _ _ _ s => decodeReading_regsOf _ _ _ _ _ _ s.freeCount

/-- Settles O14. The two parts are the quotient and the remainder by 100. -/
theorem litersAreExact : Obligations.LitersAreExact :=
  fun cl => ⟨Nat.div_add_mod' cl 100, Nat.mod_lt cl (by decide)⟩

end Sys2Proof.Proofs.FrameCodec
end

section
/-! SUPPORT. Decoding and encoding are inverse (30_encoding.md): a command word is its fields, and a frame is its
body and CRC field. -/

namespace Sys2Proof.Proofs.Encoding

open Sys2Proof Sys2Proof.Machine Sys2Proof.Safety

/-! What each decoder answers to an encoding. -/

theorem ifReservedZero_of {k : Nat} {w : BitVec 64} (h : reservedZero k w = true) (i : Instr) :
    ifReservedZero k w i = .ok i := by
  rw [ifReservedZero, if_pos h]

theorem checkReceive_of {n : Byte} (h : 1 ≤ n.toNat ∧ n.toNat ≤ 69) (t : Ms) :
    checkReceive n t = .ok (.receive n t) := by
  rw [checkReceive, if_pos h]

theorem decodeOutbound_request_write (a : Byte) (r v crc : Word) :
    decodeOutbound (requestBody a 0x06#8 r v ++ crcField crc) = .ok (.wreq a r v crc) := by
  simp [decodeOutbound, requestBody, crcField]

theorem decodeOutbound_request_read (a : Byte) (start count crc : Word) :
    decodeOutbound (requestBody a 0x03#8 start count ++ crcField crc) = .ok (.rreq a start count crc) := by
  simp [decodeOutbound, requestBody, crcField]

theorem decodeInbound_write (a : Byte) (r v crc : Word) :
    decodeInbound (requestBody a 0x06#8 r v ++ crcField crc) = .ok (.wrsp a r v crc) := by
  simp [decodeInbound, decodeWriteResponse, requestBody, crcField]

/-- The byteCount of a read response counts its data bytes, of which one byte can count 255 (R50). -/
theorem decodeInbound_read {a : Byte} {data : List Byte} {crc : Word} (h : data.length ≤ 255) :
    decodeInbound (responseBody a data ++ crcField crc) = .ok (.rrsp a data crc) := by
  have hcount : data.length % 256 = data.length := Nat.mod_eq_of_lt (by omega)
  simp [decodeInbound, decodeReadResponse, responseBody, crcField, hcount]

/-- Settles O15. Each arm is the decoder on its own encoding; a RECEIVE's length and a read response's byteCount are
where the well-formedness is used. -/
theorem decodeOfEncodeIsTheInstruction : Obligations.DecodeOfEncodeIsTheInstruction := by
  intro i hwf
  cases i with
  | crcInit => exact Crc.decodeCommand_crcInit_word
  | crcByte d => exact Crc.decodeCommand_crcByte_word d
  | receive n t =>
    have hn : 1 ≤ n.toNat ∧ n.toNat ≤ 69 := by simpa [Instr.wellFormed] using hwf
    simp [encode, decode, decodeCommand, plainCommand, checkReceive_of hn]
  | wreq a r v crc => exact decodeOutbound_request_write a r v crc
  | wrsp a r v crc => exact decodeInbound_write a r v crc
  | rreq a start count crc => exact decodeOutbound_request_read a start count crc
  | rrsp a data crc =>
    have hlen : data.length ≤ 255 := by
      simp only [Instr.wellFormed, Bool.and_eq_true, decide_eq_true_eq] at hwf
      exact hwf.1
    exact decodeInbound_read hlen
  | buildWrite | buildRead | send | wsr | rhr | evCard | evTick =>
    simp [encode, decode, decodeCommand, plainCommand, ifReservedZero_of]

/-! A word whose reserved bits are 0 is put together again from its fields, range of bits by range. -/

theorem reservedZero_getElem {k : Nat} {w : BitVec 64} (h : reservedZero k w = true) {j : Nat} (hj : j < 64)
    (hk : k ≤ j) : w[j] = false := by
  rw [reservedZero, beq_iff_eq] at h
  have hbit := congrArg (·.getLsbD (j - k)) h
  simpa [Nat.add_sub_cancel' hk, BitVec.getLsbD_eq_getElem hj] using hbit

theorem wordOp_opcode {w : BitVec 64} (h : reservedZero 8 w = true) : wordOp (opcode w) = w := by
  ext j hj
  by_cases h8 : j < 8
  · simp [wordOp, opcode, h8, hj]
  · simp [wordOp, opcode, h8, reservedZero_getElem h hj (Nat.le_of_not_lt h8)]

theorem wordByte_fields {w : BitVec 64} (h : reservedZero 16 w = true) :
    wordByte (opcode w) (fieldByte w) = w := by
  ext j hj
  obtain h8 | ⟨h8, h16⟩ | hres : j < 8 ∨ (8 ≤ j ∧ j < 16) ∨ 16 ≤ j := by omega
  · simp [wordByte, opcode, fieldByte, h8, hj]
  · simp [wordByte, opcode, fieldByte, hj, show ¬ j < 8 by omega, show j - 8 < 8 by omega, h8]
  · simp [wordByte, opcode, fieldByte, show ¬ j < 8 by omega, show ¬ j - 8 < 8 by omega,
      reservedZero_getElem h hj hres]

theorem wordTriple_fields {w : BitVec 64} (h : reservedZero 48 w = true) :
    wordTriple (opcode w) (fieldByte w) (fieldLow w) (fieldHigh w) = w := by
  ext j hj
  obtain h8 | ⟨h8, h16⟩ | ⟨h16, h32⟩ | ⟨h32, h48⟩ | hres :
      j < 8 ∨ (8 ≤ j ∧ j < 16) ∨ (16 ≤ j ∧ j < 32) ∨ (32 ≤ j ∧ j < 48) ∨ 48 ≤ j := by omega
  · simp [wordTriple, opcode, fieldByte, fieldLow, fieldHigh, h8, hj, show j < 16 by omega,
      show j < 32 by omega]
  · simp [wordTriple, opcode, fieldByte, fieldLow, fieldHigh, h8, hj, show ¬ j < 8 by omega,
      show j - 8 < 8 by omega, h16, show j < 32 by omega]
  · simp [wordTriple, opcode, fieldByte, fieldLow, fieldHigh, hj, h16, h32, show ¬ j < 8 by omega,
      show ¬ j - 8 < 8 by omega, show j - 16 < 16 by omega]
  · simp [wordTriple, opcode, fieldByte, fieldLow, fieldHigh, hj, h32, show ¬ j < 8 by omega,
      show ¬ j - 8 < 8 by omega, show ¬ j - 16 < 16 by omega, show j - 32 < 16 by omega]
  · simp [wordTriple, opcode, fieldByte, fieldLow, fieldHigh, show ¬ j < 8 by omega,
      show ¬ j - 8 < 8 by omega, show ¬ j - 16 < 16 by omega, show ¬ j - 32 < 16 by omega,
      reservedZero_getElem h hj hres]

theorem wordTime_fields {w : BitVec 64} (h : reservedZero 48 w = true) :
    wordTime (opcode w) (fieldByte w) (fieldTime w) = w := by
  ext j hj
  obtain h8 | ⟨h8, h16⟩ | ⟨h16, h48⟩ | hres :
      j < 8 ∨ (8 ≤ j ∧ j < 16) ∨ (16 ≤ j ∧ j < 48) ∨ 48 ≤ j := by omega
  · simp [wordTime, opcode, fieldByte, fieldTime, h8, hj, show j < 16 by omega]
  · simp [wordTime, opcode, fieldByte, fieldTime, h8, hj, show ¬ j < 8 by omega, show j - 8 < 8 by omega, h16]
  · simp [wordTime, opcode, fieldByte, fieldTime, hj, h16, show ¬ j < 8 by omega,
      show ¬ j - 8 < 8 by omega, show j - 16 < 32 by omega]
  · simp [wordTime, opcode, fieldByte, fieldTime, show ¬ j < 8 by omega, show ¬ j - 8 < 8 by omega,
      show ¬ j - 16 < 32 by omega, reservedZero_getElem h hj hres]

/-- What a command word decodes to has that word as its encoding (R54, R56). -/
theorem encode_of_decodeCommand {c : Command} {i : Instr} (h : decodeCommand c = .ok i) :
    ∃ c', encode i = .command c' ∧ c'.word = c.word := by
  obtain ⟨hop, hres, rfl⟩ | ⟨hop, hres, rfl⟩ | ⟨hop, hres, rfl⟩ | ⟨hop, hres, rfl⟩ | ⟨hop, hres, rfl⟩ |
    ⟨hop, hres, rfl, -⟩ | ⟨hop, hres, rfl⟩ | ⟨hop, hres, rfl⟩ | ⟨hop, hres, rfl⟩ | ⟨hop, hres, rfl⟩ :=
    decodeCommand_ok h
  all_goals refine ⟨_, rfl, ?_⟩
  case inr.inl => exact hop ▸ wordByte_fields hres
  case inr.inr.inr.inr.inr.inl => exact hop ▸ wordTime_fields hres
  case inr.inr.inl | inr.inr.inr.inl | inr.inr.inr.inr.inr.inr.inl | inr.inr.inr.inr.inr.inr.inr.inl =>
    exact hop ▸ wordTriple_fields hres
  all_goals exact hop ▸ wordOp_opcode hres

theorem crcField_u16 (high low : Byte) : crcField (u16 high low) = [low, high] := by
  simp [crcField]

/-- What the bytes of a frame the MLB sends decode to has those bytes as its encoding (R47, R49). -/
theorem encode_of_decodeOutbound {b : List Byte} {i : Instr} (h : decodeOutbound b = .ok i) :
    encode i = .outbound b := by
  unfold decodeOutbound at h
  split at h
  · split at h
    · obtain rfl := Except.ok.inj h; simp_all [encode, requestBody, crcField]
    split at h
    · obtain rfl := Except.ok.inj h; simp_all [encode, requestBody, crcField]
    cases h
  · cases h

theorem encode_of_decodeWriteResponse {b : List Byte} {i : Instr} (hfn : b.getD 1 0 = 0x06#8)
    (h : decodeWriteResponse b = .ok i) : encode i = .inbound b := by
  unfold decodeWriteResponse at h
  split at h
  · obtain rfl := Except.ok.inj h; simp_all [encode, requestBody, crcField]
  · cases h

/-- The bytes after a header, as many as the byteCount says and two more, are the data and the CRC field (R50). -/
theorem eq_take_append_pair {n : Nat} {rest : List Byte} (h : rest.length = n + 2) :
    rest = rest.take n ++ [rest.getD n 0, rest.getD (n + 1) 0] := by
  have hn : n < rest.length := by omega
  have hn1 : n + 1 < rest.length := by omega
  conv_lhs => rw [← List.take_append_drop n rest, List.drop_eq_getElem_cons hn, List.drop_eq_getElem_cons hn1,
    List.drop_of_length_le (by omega)]
  simp [hn, hn1]

theorem encode_of_decodeReadResponse {b : List Byte} {i : Instr} (hfn : b.getD 1 0 = 0x03#8)
    (h : decodeReadResponse b = .ok i) : encode i = .inbound b := by
  unfold decodeReadResponse at h
  split at h
  case h_1 a fn n rest =>
    split at h
    case isTrue hlen =>
      obtain rfl := Except.ok.inj h
      obtain rfl : fn = 0x03#8 := by simpa using hfn
      have htake : (rest.take n.toNat).length = n.toNat := by simp [hlen]
      simp only [encode, responseBody, crcField_u16, htake, BitVec.ofNat_toNat, BitVec.setWidth_eq,
        List.cons_append]
      rw [← eq_take_append_pair hlen]
    · cases h
  · cases h

/-- What the bytes of a frame the line delivers decode to has those bytes as its encoding (R48, R50). -/
theorem encode_of_decodeInbound {b : List Byte} {i : Instr} (h : decodeInbound b = .ok i) :
    encode i = .inbound b := by
  unfold decodeInbound at h
  split at h
  · split at h
    case isTrue hfn => exact encode_of_decodeWriteResponse (by simpa using hfn) h
    split at h
    case isTrue hfn => exact encode_of_decodeReadResponse (by simpa using hfn) h
    cases h
  · cases h

/-- Settles O16, decoder by decoder. -/
theorem encodeOfDecodeIsTheWord : Obligations.EncodeOfDecodeIsTheWord :=
  ⟨fun _ _ => encode_of_decodeCommand, fun _ _ => encode_of_decodeOutbound, fun _ _ => encode_of_decodeInbound⟩

/-- Settles O17: eight fixed words and frames, evaluated. -/
theorem sampleWordsDecode : Obligations.SampleWordsDecode := by
  unfold Obligations.SampleWordsDecode
  decide

end Sys2Proof.Proofs.Encoding
end

section
/-! SUPPORT. The words R57 refuses: the decoder's tests, on opcodes, reserved bits and length, in the numbers the rule
writes them in. -/

namespace Sys2Proof.Proofs.Encoding

open Sys2Proof Sys2Proof.Machine Sys2Proof.Safety

theorem opcode_toNat (w : BitVec 64) : (opcode w).toNat = w.toNat % 256 := by
  simp [opcode]

theorem fieldByte_toNat (w : BitVec 64) : (fieldByte w).toNat = w.toNat / 256 % 256 := by
  simp [fieldByte, Nat.shiftRight_eq_div_pow]

theorem opcode_eq_iff {w : BitVec 64} {op : Byte} : opcode w = op ↔ w.toNat % 256 = op.toNat := by
  rw [← BitVec.toNat_inj, opcode_toNat]

theorem reservedZero_iff {k : Nat} {w : BitVec 64} : reservedZero k w = true ↔ w.toNat < 2 ^ k := by
  rw [reservedZero, beq_iff_eq, ← BitVec.toNat_inj, BitVec.toNat_ushiftRight, Nat.shiftRight_eq_div_pow]
  simp [Nat.div_eq_zero_iff]

theorem ifReservedZero_error_iff {k : Nat} {w : BitVec 64} {i : Instr} :
    (∃ e, ifReservedZero k w i = .error e) ↔ 2 ^ k ≤ w.toNat := by
  rw [← Nat.not_lt, ← reservedZero_iff, ifReservedZero]
  split <;> simp [*]

theorem checkReceive_error_iff {n : Byte} {t : Ms} :
    (∃ e, checkReceive n t = .error e) ↔ n.toNat = 0 ∨ 69 < n.toNat := by
  rw [checkReceive]
  split <;> simp <;> omega

theorem error_ite_iff {p : Prop} [Decidable p] {a b : Except Reject Instr} :
    (∃ e, (if p then a else b) = .error e) ↔ if p then ∃ e, a = .error e else ∃ e, b = .error e := by
  split <;> rfl

/-- Settles O18. Opcode by opcode, the decoder's answer turns on the test that R57 lists for it. -/
theorem exactlyIllegalWordsDoNotDecode : Obligations.ExactlyIllegalWordsDoNotDecode := by
  intro c
  have hdecode : (∃ e, decodeCommand c = .error e) ↔
      if c.word.toNat % 256 = 0x01 then 2 ^ 8 ≤ c.word.toNat
      else if c.word.toNat % 256 = 0x02 then 2 ^ 16 ≤ c.word.toNat
      else if c.word.toNat % 256 = 0x10 then 2 ^ 48 ≤ c.word.toNat
      else if c.word.toNat % 256 = 0x11 then 2 ^ 48 ≤ c.word.toNat
      else if c.word.toNat % 256 = 0x20 then 2 ^ 8 ≤ c.word.toNat
      else if c.word.toNat % 256 = 0x21 then
        if c.word.toNat < 2 ^ 48 then c.word.toNat / 256 % 256 = 0 ∨ 69 < c.word.toNat / 256 % 256 else True
      else if c.word.toNat % 256 = 0x30 then 2 ^ 48 ≤ c.word.toNat
      else if c.word.toNat % 256 = 0x31 then 2 ^ 48 ≤ c.word.toNat
      else if c.word.toNat % 256 = 0x40 then 2 ^ 8 ≤ c.word.toNat
      else if c.word.toNat % 256 = 0x41 then 2 ^ 8 ≤ c.word.toNat
      else True := by
    simp [decodeCommand, opcode_eq_iff, reservedZero_iff, error_ite_iff, ifReservedZero_error_iff,
      checkReceive_error_iff, fieldByte_toNat]
  rw [hdecode, IllegalWord]
  split_ifs <;> simp <;> omega

/-- Settles O19. -/
theorem illegalWordSetsRefusedOnly : Obligations.IllegalWordSetsRefusedOnly := by
  intro c s hw
  obtain ⟨e, he⟩ := (exactlyIllegalWordsDoNotDecode c).mp hw
  rw [accept_of_error he]
  rfl

end Sys2Proof.Proofs.Encoding
end

section
/-! SUPPORT. The rules of an exchange: what its operations leave untouched, what a check of each receive goes on with,
and where its error ends lead. -/

namespace Sys2Proof.Proofs.Exchange

open Sys2Proof Sys2Proof.Machine Sys2Proof.Safety

/-! What an exchange leaves as it is until it ends. -/

/-- An exchange has touched neither the result registers of a read, nor what was sent, nor the session, nor the
configuration, the clock and the port. -/
def Untouched (s t : State) : Prop := RegsSame s t ∧ SentSame s t ∧ SessionSame s t ∧ OtherSame s t

theorem Untouched.refl (s : State) : Untouched s s :=
  ⟨⟨rfl, rfl⟩, ⟨rfl, rfl, rfl⟩, ⟨rfl, rfl, rfl, rfl, rfl, rfl, rfl, rfl, rfl⟩, ⟨rfl, rfl, rfl, rfl, rfl, rfl⟩⟩

theorem RegsSame.trans {s t u : State} (h : RegsSame s t) (k : RegsSame t u) : RegsSame s u :=
  ⟨k.1.trans h.1, k.2.trans h.2⟩

theorem SentSame.trans {s t u : State} (h : SentSame s t) (k : SentSame t u) : SentSame s u := by
  obtain ⟨h1, h2, h3⟩ := h
  obtain ⟨k1, k2, k3⟩ := k
  exact ⟨k1.trans h1, k2.trans h2, k3.trans h3⟩

theorem SessionSame.trans {s t u : State} (h : SessionSame s t) (k : SessionSame t u) : SessionSame s u := by
  obtain ⟨h1, h2, h3, h4, h5, h6, h7, h8, h9⟩ := h
  obtain ⟨k1, k2, k3, k4, k5, k6, k7, k8, k9⟩ := k
  exact ⟨k1.trans h1, k2.trans h2, k3.trans h3, k4.trans h4, k5.trans h5, k6.trans h6, k7.trans h7, k8.trans h8,
    k9.trans h9⟩

theorem OtherSame.trans {s t u : State} (h : OtherSame s t) (k : OtherSame t u) : OtherSame s u := by
  obtain ⟨h1, h2, h3, h4, h5, h6⟩ := h
  obtain ⟨k1, k2, k3, k4, k5, k6⟩ := k
  exact ⟨k1.trans h1, k2.trans h2, k3.trans h3, k4.trans h4, k5.trans h5, k6.trans h6⟩

theorem Untouched.trans {s t u : State} (h : Untouched s t) (k : Untouched t u) : Untouched s u := by
  obtain ⟨hr, hs, hf, ho⟩ := h
  obtain ⟨kr, ks, kf, ko⟩ := k
  exact ⟨RegsSame.trans hr kr, SentSame.trans hs ks, SessionSame.trans hf kf, OtherSame.trans ho ko⟩

theorem Untouched.sessionSame {s t : State} (h : Untouched s t) : SessionSame s t := by
  obtain ⟨-, -, hsession, -⟩ := h
  exact hsession

theorem untouched_takeTurn (s : State) : Untouched s (takeTurn s) := Untouched.refl s
theorem untouched_withAgenda (ts : List Turn) (s : State) : Untouched s (withAgenda ts s) := Untouched.refl s
theorem untouched_setDe (v : Bool) (s : State) : Untouched s (setDe v s) := Untouched.refl s
theorem untouched_drainUart (n : Nat) (s : State) : Untouched s (drainUart n s) := Untouched.refl s
theorem untouched_deliverBytes (b : List Byte) (s : State) : Untouched s (deliverBytes b s) := Untouched.refl s
theorem untouched_takeRx (w : Window) (s : State) : Untouched s (takeRx w s) := Untouched.refl s
theorem untouched_storeResponse (x : List Byte) (s : State) : Untouched s (storeResponse x s) := Untouched.refl s
theorem untouched_setRes (r : Res) (s : State) : Untouched s (setRes r s) := Untouched.refl s
theorem untouched_hold (a : Activity) (s : State) : Untouched s (hold a s) := Untouched.refl s
theorem untouched_endCommand (s : State) : Untouched s (endCommand s) := Untouched.refl s
theorem untouched_raise (e : ProtocolError) (s : State) : Untouched s (raise e s) := Untouched.refl s
theorem untouched_setRxq (q : List Byte) (s : State) : Untouched s { s with rxq := q } := Untouched.refl s

/-! Whose receive it is, and how it ends in an error (R95, R97, R104). -/

/-- Whom the end of an exchange concerns: the host, or the session FSM with its start write or its poll. -/
inductive Role where
  | host
  | start
  | poll

/-- The role of each receive. -/
def roleOf : Receiver → Role
  | .command => .host
  | .wsr _ _ _ .host => .host
  | .wsr _ _ _ .fsm => .start
  | .header _ _ .host => .host
  | .header _ _ .fsm => .poll
  | .body _ _ .host => .host
  | .body _ _ .fsm => .poll

/-- The end of an exchange with the error `e`. -/
def errorEnd : Role → ProtocolError → State → State
  | .host, e, s => endCommand (raise e s)
  | .start, e, s => endCommand (startFail e (raise e s))
  | .poll, e, s => endCommand (pollFail e (raise e s))

@[simp] theorem errorEnd_rxq (q : Role) (e : ProtocolError) (s : State) : (errorEnd q e s).rxq = s.rxq := by
  cases q <;> rfl
@[simp] theorem errorEnd_de (q : Role) (e : ProtocolError) (s : State) : (errorEnd q e s).de = s.de := by
  cases q <;> rfl
@[simp] theorem errorEnd_uart (q : Role) (e : ProtocolError) (s : State) : (errorEnd q e s).uart = s.uart := by
  cases q <;> rfl
@[simp] theorem errorEnd_busy (q : Role) (e : ProtocolError) (s : State) : (errorEnd q e s).busy = false := by
  cases q <;> rfl
@[simp] theorem errorEnd_params (q : Role) (e : ProtocolError) (s : State) :
    (errorEnd q e s).params = s.params := by cases q <;> rfl
@[simp] theorem errorEnd_regCount (q : Role) (e : ProtocolError) (s : State) :
    (errorEnd q e s).regCount = s.regCount := by cases q <;> rfl
@[simp] theorem errorEnd_txTrace (q : Role) (e : ProtocolError) (s : State) :
    (errorEnd q e s).txTrace = s.txTrace := by cases q <;> rfl
@[simp] theorem errorEnd_txValid (q : Role) (e : ProtocolError) (s : State) :
    (errorEnd q e s).txValid = s.txValid := by cases q <;> rfl
@[simp] theorem errorEnd_activity (q : Role) (e : ProtocolError) (s : State) :
    (errorEnd q e s).activity = .none := by cases q <;> rfl
@[simp] theorem errorEnd_res (q : Role) (e : ProtocolError) (s : State) : (errorEnd q e s).res = .error e := by
  cases q <;> rfl
@[simp] theorem errorEnd_rxLen (q : Role) (e : ProtocolError) (s : State) : (errorEnd q e s).rxLen = 0#7 := by
  cases q <;> rfl

theorem endRhr_error {by_ : Caller} {x : Receiver} {e : ProtocolError} (s : State)
    (hx : (∃ a c, x = .header a c by_) ∨ ∃ c h, x = .body c h by_) :
    endRhr by_ (.error e) (raise e s) = errorEnd (roleOf x) e s := by
  obtain ⟨a, c, rfl⟩ | ⟨c, h, rfl⟩ := hx <;> cases by_ <;> rfl

theorem endWsr_error (a : Byte) (r v : Word) (by_ : Caller) (e : ProtocolError) (s : State) :
    endWsr by_ (.error e) (raise e s) = .next (errorEnd (roleOf (.wsr a r v by_)) e s) := by
  cases by_ <;> rfl

theorem errorEnd_host {s u : State} (h : Untouched s u) (e : ProtocolError) :
    HostFails e s (errorEnd .host e u) := by
  obtain ⟨hregs, hsent, hsession, hother⟩ := h
  exact ⟨rfl, rfl, ⟨rfl, rfl⟩, hregs, hsent, hsession, hother⟩

theorem errorEnd_start {s u : State} (h : Untouched s u) (e : ProtocolError) :
    StartFails e s (errorEnd .start e u) := by
  obtain ⟨hregs, hsent, ⟨_, hprev, hseed, hpoll, hclose, _, hsession, hreading, hlog⟩, hother⟩ := h
  exact ⟨rfl, rfl, hsession, hprev, hseed, hreading, congrArg (· ++ _) hlog, hpoll, hclose, rfl, rfl, ⟨rfl, rfl⟩,
    hregs, hsent, hother⟩

theorem errorEnd_poll {s u : State} (h : Untouched s u) (e : ProtocolError) :
    PollFails e s (errorEnd .poll e u) := by
  simp only [Untouched, RegsSame, SentSame, SessionSame, OtherSame] at h
  simp [PollFails, errorEnd, pollFail, Ended, RegsSame, SentSame, OtherSame, h]

/-! Every receive makes its first check as every later one: in the window it has just opened (R80). -/

theorem sendContinue_wsr (a : Byte) (r v : Word) (by_ : Caller) (s : State) :
    sendContinue (.wsr a r v by_) s =
      receiveContinue (.wsr a r v by_) (openWindow 8 s.cfg.writeTimeoutMs s) s := rfl

theorem sendContinue_rhr (a : Byte) (count : Word) (by_ : Caller) (s : State) :
    sendContinue (.rhr a count by_) s =
      receiveContinue (.header a count by_) (openWindow 3 s.cfg.readTimeoutMs s) s := rfl

/-- The window of the body receive that follows the header `h` (R89). -/
def bodyWindow (h : List Byte) (s : State) : Window :=
  openWindow ((h.getD 2 0).toNat + 2) s.cfg.readTimeoutMs s

theorem next_bodyStart (count : Word) (h : List Byte) (by_ : Caller) (s : State) :
    Host.Outcome.next (bodyStart count h by_ s) = receiveContinue (.body count h by_) (bodyWindow h s) s := rfl

theorem exec_receive {n : Byte} (hn : 1 ≤ n.toNat ∧ n.toNat ≤ 69) (t : Ms) (s : State) :
    exec (.receive n t) s = receiveContinue .command (openWindow n.toNat t s) s := by
  change execReceive n t s = _
  rw [execReceive, if_pos hn]
  rfl

/-! What a check goes on with, by what it finds. -/

section
variable {x : Receiver} {w : Window} {s : State}

theorem receiveContinue_of_wait {v : Window} (h : checkWindow w s = .wait v) :
    receiveContinue x w s = .next (hold (.receiving x v) (takeRx w s)) := by
  cases x <;>
    simp only [receiveContinue, h, receiveCommand, wsrContinue, headerContinue, bodyContinue]

theorem receiveContinue_of_timeout (h : checkWindow w s = .timeout) :
    receiveContinue x w s = .next (errorEnd (roleOf x) .timeout (takeRx w s)) := by
  cases x with
  | command => simp only [receiveContinue, h, receiveCommand]; rfl
  | wsr a r v by_ => simp only [receiveContinue, h, wsrContinue, endWsr_error a r v]
  | header a count by_ =>
    simp only [receiveContinue, h, headerContinue]
    rw [endRhr_error _ (.inl ⟨a, count, rfl⟩)]
  | body count header by_ =>
    simp only [receiveContinue, h, bodyContinue]
    rw [endRhr_error _ (.inr ⟨count, header, rfl⟩)]

theorem receiveContinue_command_of_bytes {g : List Byte} (h : checkWindow w s = .bytes g) :
    receiveContinue .command w s = .next (endCommand (setRes .ok (storeResponse g (takeRx w s)))) := by
  simp only [receiveContinue, h, receiveCommand]

variable {a : Byte} {r v count : Word} {by_ : Caller} {g header : List Byte} {e : ProtocolError}

theorem receiveContinue_wsr_of_ok (h : checkWindow w s = .bytes g) (hv : wsrVerdict a r v g = .ok) :
    receiveContinue (.wsr a r v by_) w s = endWsr by_ .ok (setRes .ok (storeResponse g (takeRx w s))) := by
  simp only [receiveContinue, h, wsrContinue, hv, recordStatus]

theorem receiveContinue_wsr_of_error (h : checkWindow w s = .bytes g) (hv : wsrVerdict a r v g = .error e) :
    receiveContinue (.wsr a r v by_) w s =
      .next (errorEnd (roleOf (.wsr a r v by_)) e (storeResponse g (takeRx w s))) := by
  simp only [receiveContinue, h, wsrContinue, hv, recordStatus, endWsr_error a r v]

theorem receiveContinue_header_of_ok (h : checkWindow w s = .bytes g) (hv : headerVerdict a count g = .ok) :
    receiveContinue (.header a count by_) w s =
      receiveContinue (.body count g by_) (bodyWindow g (takeRx w s)) (takeRx w s) := by
  rw [← next_bodyStart]
  simp only [receiveContinue, h, headerContinue, hv]

theorem receiveContinue_header_of_error (h : checkWindow w s = .bytes g)
    (hv : headerVerdict a count g = .error e) :
    receiveContinue (.header a count by_) w s =
      .next (errorEnd (roleOf (.header a count by_)) e (takeRx w s)) := by
  simp only [receiveContinue, h, headerContinue, hv]
  rw [endRhr_error _ (.inl ⟨a, count, rfl⟩)]

/-- A read response is complete and its CRC is right: it is in RXBUF and its registers in REGS (R89). -/
def storeRead (x : List Byte) (s : State) : State :=
  setRes .ok (storeRegs (decodeRegs (responseData x)) (storeResponse x s))

theorem sessionSame_storeRead (x : List Byte) (s : State) : SessionSame s (storeRead x s) :=
  ⟨rfl, rfl, rfl, rfl, rfl, rfl, rfl, rfl, rfl⟩

theorem receiveContinue_body_of_ok (h : checkWindow w s = .bytes g) (hc : crcOk (header ++ g) = true) :
    receiveContinue (.body count header by_) w s =
      .next (endRhr by_ .ok (storeRead (header ++ g) (takeRx w s))) := by
  simp only [receiveContinue, h, bodyContinue, hc, if_true, storeRead]

theorem receiveContinue_body_of_error (h : checkWindow w s = .bytes g) (hc : crcOk (header ++ g) = false) :
    receiveContinue (.body count header by_) w s =
      .next (errorEnd (roleOf (.body count header by_)) .crcMismatch
        (storeResponse (header ++ g) (takeRx w s))) := by
  simp only [receiveContinue, h, bodyContinue, hc, Bool.false_eq_true, if_false]
  rw [endRhr_error _ (.inr ⟨count, header, rfl⟩)]

end

/-! The same, said once for every receive. -/

/-- How a check of the receive `x` in the window `w` leads from `s` to `t`. -/
inductive AfterCheck : Receiver → Window → State → State → Prop where
  /-- It yields. -/
  | waits {x : Receiver} {w v : Window} {s : State} (hc : checkWindow w s = .wait v) :
      AfterCheck x w s (hold (.receiving x v) (takeRx w s))
  /-- Its time is over. -/
  | timesOut {x : Receiver} {w : Window} {s : State} (hc : checkWindow w s = .timeout) :
      AfterCheck x w s (errorEnd (roleOf x) .timeout (takeRx w s))
  /-- Its bytes are there and wrong; RXBUF may have held them before the error discards them. -/
  | fails {x : Receiver} {w : Window} {s u : State} {g : List Byte} (e : ProtocolError)
      (hc : checkWindow w s = .bytes g) (hu : u = takeRx w s ∨ ∃ b, u = storeResponse b (takeRx w s)) :
      AfterCheck x w s (errorEnd (roleOf x) e u)
  /-- A RECEIVE has its bytes (R85). -/
  | received {w : Window} {s : State} {g : List Byte} (hc : checkWindow w s = .bytes g) :
      AfterCheck .command w s (endCommand (setRes .ok (storeResponse g (takeRx w s))))
  /-- A WSR has its echo (R87). -/
  | echoed {w : Window} {s t : State} {g : List Byte} {a : Byte} {r v : Word} {by_ : Caller}
      (hc : checkWindow w s = .bytes g)
      (ht : endWsr by_ .ok (setRes .ok (storeResponse g (takeRx w s))) = .next t) :
      AfterCheck (.wsr a r v by_) w s t
  /-- An RHR has its header, and the first check of its body follows (R89). -/
  | opensBody {w : Window} {s t : State} {g : List Byte} {a : Byte} {count : Word} {by_ : Caller}
      (hc : checkWindow w s = .bytes g) (hv : headerVerdict a count g = .ok)
      (ht : AfterCheck (.body count g by_) (bodyWindow g (takeRx w s)) (takeRx w s) t) :
      AfterCheck (.header a count by_) w s t
  /-- An RHR has its response (R89). -/
  | read {w : Window} {s : State} {g header : List Byte} {count : Word} {by_ : Caller}
      (hc : checkWindow w s = .bytes g) :
      AfterCheck (.body count header by_) w s (endRhr by_ .ok (storeRead (header ++ g) (takeRx w s)))

theorem afterCheck_body {count : Word} {header : List Byte} {by_ : Caller} {w : Window} {s t : State}
    (h : receiveContinue (.body count header by_) w s = .next t) :
    AfterCheck (.body count header by_) w s t := by
  cases hc : checkWindow w s with
  | wait v => rw [receiveContinue_of_wait hc] at h; exact Host.Outcome.next.inj h ▸ .waits hc
  | timeout => rw [receiveContinue_of_timeout hc] at h; exact Host.Outcome.next.inj h ▸ .timesOut hc
  | bytes g =>
    cases hok : crcOk (header ++ g) with
    | true => rw [receiveContinue_body_of_ok hc hok] at h; exact Host.Outcome.next.inj h ▸ .read hc
    | false =>
      rw [receiveContinue_body_of_error hc hok] at h
      exact Host.Outcome.next.inj h ▸ .fails _ hc (.inr ⟨_, rfl⟩)

/-- What a check of a receive can lead to. -/
theorem afterCheck_of_receiveContinue {x : Receiver} {w : Window} {s t : State}
    (h : receiveContinue x w s = .next t) : AfterCheck x w s t := by
  cases hc : checkWindow w s with
  | wait v => rw [receiveContinue_of_wait hc] at h; exact Host.Outcome.next.inj h ▸ .waits hc
  | timeout => rw [receiveContinue_of_timeout hc] at h; exact Host.Outcome.next.inj h ▸ .timesOut hc
  | bytes g =>
    cases x with
    | command => rw [receiveContinue_command_of_bytes hc] at h; exact Host.Outcome.next.inj h ▸ .received hc
    | wsr a r v by_ =>
      cases hv : wsrVerdict a r v g with
      | ok => exact .echoed hc (receiveContinue_wsr_of_ok hc hv ▸ h)
      | error e =>
        rw [receiveContinue_wsr_of_error hc hv] at h
        exact Host.Outcome.next.inj h ▸ .fails _ hc (.inr ⟨_, rfl⟩)
    | header a count by_ =>
      cases hv : headerVerdict a count g with
      | ok => exact .opensBody hc hv (afterCheck_body (receiveContinue_header_of_ok hc hv ▸ h))
      | error e =>
        rw [receiveContinue_header_of_error hc hv] at h
        exact Host.Outcome.next.inj h ▸ .fails _ hc (.inl rfl)
    | body count header by_ => exact afterCheck_body h

/-- The response of a completed check is stored with RES = Ok (R85, R87). -/
theorem untouched_stored (x : List Byte) (w : Window) (s : State) :
    Untouched s (setRes .ok (storeResponse x (takeRx w s))) :=
  ((untouched_takeRx w s).trans (untouched_storeResponse x _)).trans (untouched_setRes .ok _)

/-- A state that a failing check raises its error in. -/
theorem untouched_of_taken {w : Window} {s u : State}
    (h : u = takeRx w s ∨ ∃ b, u = storeResponse b (takeRx w s)) : Untouched s u := by
  obtain rfl | ⟨b, rfl⟩ := h
  · exact untouched_takeRx w s
  · exact (untouched_takeRx w s).trans (untouched_storeResponse b _)

end Sys2Proof.Proofs.Exchange
end

section
/-! SUPPORT. What an instruction, the control loop's turn and a step can lead to: one inversion each. -/

namespace Sys2Proof.Proofs.Outcome

open Sys2Proof Sys2Proof.Machine Sys2Proof.Safety Sys2Proof.Proofs.Exchange

/-- What the instruction `i`, where it gives a next state, leads to from `s`. -/
inductive ExecOutcome (i : Instr) (s : State) : State → Prop where
  /-- A card outside Idle, or a tick with nothing due (R96, R100). -/
  | ignored : ExecOutcome i s s
  /-- The command's own rule refuses it (R106). -/
  | refused (q : RefuseReason) (hi : RefusedByRule i s) : ExecOutcome i s (refuse q s)
  /-- CRC_INIT, CRC_BYTE. -/
  | crc (c : Word) (hi : i = .crcInit ∨ ∃ d, i = .crcByte d) : ExecOutcome i s (setCrc c s)
  /-- BUILD_WRITE, BUILD_READ. -/
  | built (f : Vector Byte 8) : ExecOutcome i s (loadTx f s)
  /-- SEND (R84). -/
  | sends (hv : s.txValid = true) : ExecOutcome i s (startSend .command s.txBuf.toList s)
  /-- WREQ, RREQ (log 13). -/
  | sendsFrame (f : List Byte) (hi : encode i = .outbound f) : ExecOutcome i s (startSend .command f s)
  /-- RECEIVE (R85). -/
  | receives {t : State} (n : Nat) (limit : Ms) (hn : 1 ≤ n ∧ n ≤ 69)
      (ht : AfterCheck .command (openWindow n limit s) s t) : ExecOutcome i s t
  /-- WSR (R87). -/
  | writes (a : Byte) (r v : Word) (f : Vector Byte 8) :
      ExecOutcome i s (startSend (.wsr a r v .host) f.toList (loadTx f s))
  /-- RHR (R89). -/
  | reads (a : Byte) (count : Word) (f : Vector Byte 8) (hc : countInRange count = true) :
      ExecOutcome i s (startSend (.rhr a count .host) f.toList (clearRegCount (loadTx f s)))
  /-- A card is rejected (R93). -/
  | rejects (id : CardId) (hf : s.fsm = .idle) : ExecOutcome i s (emit (.rejected id) s)
  /-- A card starts a session (R93). -/
  | starts (id : CardId) (plate : Plate) (f : Vector Byte 8) (hf : s.fsm = .idle) :
      ExecOutcome i s
        (startSend (.wsr s.cfg.slaveAddress 0#16 1#16 .fsm) f.toList (loadTx f (beginStart id plate s)))
  /-- A poll is due (R97). -/
  | polls (f : Vector Byte 8) (hf : s.fsm = .sessionActive) :
      ExecOutcome i s
        (startSend (.rhr s.cfg.slaveAddress 6#16 .fsm) f.toList (clearRegCount (loadTx f (beginPoll s))))
  /-- The summary window is over (R96). -/
  | returns (hf : s.fsm = .sessionClosing) : ExecOutcome i s (returnToIdle s)
  /-- WRSP, RRSP (log 13). -/
  | arrives (b : List Byte) : ExecOutcome i s (deliverBytes b s)

theorem execOutcome_evCard {id : CardId} {lookup : Option Plate} {s t : State}
    (h : execEvCard id lookup s = .next t) : ExecOutcome (.evCard id lookup) s t := by
  rw [execEvCard.eq_def] at h
  split at h
  case isTrue hf =>
    cases lookup with
    | none => exact Host.Outcome.next.inj h ▸ .rejects id hf
    | some plate => exact Host.Outcome.next.inj h ▸ .starts id plate _ hf
  case isFalse => exact Host.Outcome.next.inj h ▸ .ignored

theorem execOutcome_evTick {s t : State} (h : execEvTick s = .next t) : ExecOutcome .evTick s t := by
  rw [execEvTick] at h
  cases hf : s.fsm with
  | idle | sessionStarting => rw [hf] at h; exact Host.Outcome.next.inj h ▸ .ignored
  | sessionActive =>
    simp only [hf] at h
    split at h
    · exact Host.Outcome.next.inj h ▸ .polls _ hf
    · exact Host.Outcome.next.inj h ▸ .ignored
  | sessionClosing =>
    simp only [hf] at h
    split at h
    · exact Host.Outcome.next.inj h ▸ .returns hf
    · exact Host.Outcome.next.inj h ▸ .ignored

/-- A command whose rule refuses it sets REFUSED and nothing else (R106). -/
theorem exec_of_refusedByRule {i : Instr} {s : State} (h : RefusedByRule i s) :
    ∃ q, exec i s = .next (refuse q s) := by
  cases i with
  | send =>
    have hv : s.txValid = false := h
    exact ⟨.sendWithoutFrame, by simp [exec, execSend, hv]⟩
  | receive n t =>
    have hn : ¬(1 ≤ n.toNat ∧ n.toNat ≤ 69) := by
      have : n.toNat = 0 ∨ 69 < n.toNat := h
      omega
    exact ⟨.illegalCommand, by simp only [exec, execReceive, if_neg hn]⟩
  | rhr a start count =>
    have hc : count.toNat < 1 ∨ 32 < count.toNat := by
      have : count.toNat = 0 ∨ 32 < count.toNat := h
      omega
    exact ⟨_, RegisterClient.exec_rhr_of_not_countInRange a start s
      (RegisterClient.countInRange_eq_false_iff.mpr hc)⟩
  | crcInit | crcByte | buildWrite | buildRead | wsr | evCard | evTick | wreq | wrsp | rreq | rrsp => exact h.elim

/-- What an instruction can lead to. -/
theorem execOutcome_of_exec {i : Instr} {s t : State} (h : exec i s = .next t) : ExecOutcome i s t := by
  by_cases hr : RefusedByRule i s
  · obtain ⟨q, hq⟩ := exec_of_refusedByRule hr
    exact Host.Outcome.next.inj (hq.symm.trans h) ▸ .refused q hr
  cases i with
  | crcInit => exact Host.Outcome.next.inj h ▸ .crc _ (.inl rfl)
  | crcByte d => exact Host.Outcome.next.inj h ▸ .crc _ (.inr ⟨d, rfl⟩)
  | buildWrite a r v => exact Host.Outcome.next.inj h ▸ .built _
  | buildRead a start count => exact Host.Outcome.next.inj h ▸ .built _
  | send =>
    have hv : s.txValid = true := Bool.eq_true_of_not_eq_false hr
    rw [exec, execSend, if_pos hv] at h
    exact Host.Outcome.next.inj h ▸ .sends hv
  | receive n limit =>
    have hn : 1 ≤ n.toNat ∧ n.toNat ≤ 69 := by
      have : ¬(n.toNat = 0 ∨ 69 < n.toNat) := hr
      omega
    exact .receives n.toNat limit hn (afterCheck_of_receiveContinue (exec_receive hn limit s ▸ h))
  | wsr a r v => exact Host.Outcome.next.inj h ▸ .writes a r v _
  | rhr a start count =>
    have hc : countInRange count = true := by
      have : ¬(count.toNat = 0 ∨ 32 < count.toNat) := hr
      rw [countInRange_iff]
      omega
    rw [exec, execRhr, if_pos hc] at h
    exact Host.Outcome.next.inj h ▸ .reads a count _ hc
  | evCard id lookup => exact execOutcome_evCard h
  | evTick => exact execOutcome_evTick h
  | wreq a r v crc => exact Host.Outcome.next.inj h ▸ .sendsFrame _ rfl
  | rreq a start count crc => exact Host.Outcome.next.inj h ▸ .sendsFrame _ rfl
  | wrsp a r v crc => exact Host.Outcome.next.inj h ▸ .arrives _
  | rrsp a data crc => exact Host.Outcome.next.inj h ▸ .arrives _

/-- What the control loop's turn leads to. -/
inductive LoopOutcome (s : State) : State → Prop where
  /-- It has nothing to do, or it waits for the UART. -/
  | idles : LoopOutcome s s
  /-- A send that no receive follows is over (R77 step 5, R84). -/
  | sent (ha : s.activity = .sending .command) : LoopOutcome s (endCommand (setDe false s))
  /-- A WSR's send is over, and its receive makes its first check (R87). -/
  | sentWsr {t : State} (a : Byte) (r v : Word) (by_ : Caller) (ha : s.activity = .sending (.wsr a r v by_))
      (ht : AfterCheck (.wsr a r v by_) (openWindow 8 s.cfg.writeTimeoutMs s) (setDe false s) t) : LoopOutcome s t
  /-- An RHR's send is over, and its header receive makes its first check (R89). -/
  | sentRhr {t : State} (a : Byte) (count : Word) (by_ : Caller) (ha : s.activity = .sending (.rhr a count by_))
      (ht : AfterCheck (.header a count by_) (openWindow 3 s.cfg.readTimeoutMs s) (setDe false s) t) :
      LoopOutcome s t
  /-- An open receive is checked (R80). -/
  | checks {t : State} (x : Receiver) (w : Window) (ha : s.activity = .receiving x w)
      (ht : AfterCheck x w s t) : LoopOutcome s t
  /-- An illegal word is accepted and refused (R57). -/
  | refuses (ha : s.activity = .none) (hb : s.busy = false) : LoopOutcome s (refuse .illegalCommand (popPort s))
  /-- A command is accepted and run (R22). -/
  | runs {t : State} (i : Instr) (c : Command) (rest : List Command) (ha : s.activity = .none)
      (hb : s.busy = false) (hp : s.port = c :: rest) (hi : decodeCommand c = .ok i)
      (ht : ExecOutcome i (popPort s) t) : LoopOutcome s t

theorem loopOutcome_of_sendContinue {x : Sender} {s t : State} (ha : s.activity = .sending x)
    (h : sendContinue x (setDe false s) = .next t) : LoopOutcome s t := by
  cases x with
  | command => exact Host.Outcome.next.inj h ▸ .sent ha
  | wsr a r v by_ =>
    rw [sendContinue_wsr] at h
    exact .sentWsr a r v by_ ha (afterCheck_of_receiveContinue h)
  | rhr a count by_ =>
    rw [sendContinue_rhr] at h
    exact .sentRhr a count by_ ha (afterCheck_of_receiveContinue h)

/-- What the control loop's turn can lead to. -/
theorem loopOutcome_of_mlbTurn {s t : State} (h : mlbTurn s = .next t) : LoopOutcome s t := by
  cases ha : s.activity with
  | sending x =>
    rw [mlbTurn_sending ha] at h
    split at h
    · exact loopOutcome_of_sendContinue ha h
    · exact Host.Outcome.next.inj h ▸ .idles
  | receiving x w =>
    rw [mlbTurn_receiving ha] at h
    exact .checks x w ha (afterCheck_of_receiveContinue h)
  | none =>
    cases hb : s.busy with
    | true => rw [mlbTurn_busy ha hb] at h; exact Host.Outcome.next.inj h ▸ .idles
    | false =>
      cases hp : s.port with
      | nil => rw [mlbTurn_no_command ha hp] at h; exact Host.Outcome.next.inj h ▸ .idles
      | cons c rest =>
        rw [mlbTurn_accept ha hb hp] at h
        cases hi : decodeCommand c with
        | error e => rw [accept_of_error hi] at h; exact Host.Outcome.next.inj h ▸ .refuses ha hb
        | ok i => rw [accept_of_ok hi] at h; exact .runs i c rest ha hb hp hi (execOutcome_of_exec h)

/-- Whatever the line delivers arrives at RXQ: a response frame's meaning is just that (log 13). -/
theorem lineTurn_eq (b : List Byte) (s : State) : lineTurn b s = .next (deliverBytes b s) := by
  cases hd : decodeInbound b with
  | error e => simp only [lineTurn, hd]
  | ok i =>
    have henc := Encoding.encode_of_decodeInbound hd
    simp only [lineTurn, hd]
    obtain ⟨a, r, v, crc, rfl⟩ | ⟨a, data, crc, rfl⟩ := decodeInbound_ok hd
    · obtain rfl : requestBody a 0x06#8 r v ++ crcField crc = b := by simpa [encode] using henc
      rfl
    · obtain rfl : responseBody a data ++ crcField crc = b := by simpa [encode] using henc
      rfl

/-- What a step leads to. -/
inductive StepOutcome (s : State) : State → Prop where
  | overdue {t : State} (hn : nextTurn s = .clock) (ho : checkOverdue s = true) (ht : LoopOutcome s t) :
      StepOutcome s t
  | loop {t : State} (hn : nextTurn s = .mlb) (ht : LoopOutcome (takeTurn s) t) : StepOutcome s t
  | clock (hn : nextTurn s = .clock) (ho : checkOverdue s = false) : StepOutcome s (tickClock (takeTurn s))
  | drain (n : Nat) (hn : nextTurn s = .drain n) : StepOutcome s (drainUart n (takeTurn s))
  | deliver (b : List Byte) (hn : nextTurn s = .deliver b) : StepOutcome s (deliverBytes b (takeTurn s))
  | present (c : Command) (hn : nextTurn s = .present c) : StepOutcome s (presentCommand c (takeTurn s))
  | reset (r : ResetInput) (hn : nextTurn s = .reset r) : StepOutcome s (resetState r (takeTurn s))

/-- What a step can lead to. -/
theorem stepOutcome_of_step {s t : State} (h : step s = .next t) : StepOutcome s t := by
  obtain ⟨hn, ho, he⟩ | ⟨hn, he⟩ | ⟨hn, ho, he⟩ | ⟨n, hn, he⟩ | ⟨b, hn, he⟩ | ⟨c, hn, he⟩ | ⟨r, hn, he⟩ := step_cases s
  all_goals rw [he] at h
  · exact .overdue hn ho (loopOutcome_of_mlbTurn h)
  · exact .loop hn (loopOutcome_of_mlbTurn h)
  · exact Host.Outcome.next.inj h ▸ .clock hn ho
  · exact Host.Outcome.next.inj h ▸ .drain n hn
  · rw [lineTurn_eq] at h; exact Host.Outcome.next.inj h ▸ .deliver b hn
  · exact Host.Outcome.next.inj h ▸ .present c hn
  · exact Host.Outcome.next.inj h ▸ .reset r hn

end Sys2Proof.Proofs.Outcome
end

section
/-! SUPPORT. The timing of an open receive: a window that a check leaves open is inside its time then, and the clock
does not pass its bound (R80, R81). -/

namespace Sys2Proof.Proofs.Timing

open Sys2Proof Sys2Proof.Machine Sys2Proof.Safety Sys2Proof.Proofs.Exchange Sys2Proof.Proofs.Outcome

/-- An open receive has just been checked, inside its time. -/
def JustChecked (t : State) : Prop :=
  ∀ y v, t.activity = .receiving y v → elapsed v.checkedAt v.t0 < v.limit ∧ v.checkedAt = t.now

theorem justChecked_of_ended {t : State} (h : t.activity = .none) : JustChecked t := by
  intro y v hy
  rw [h] at hy
  cases hy

theorem justChecked_of_sending {t : State} {x : Sender} (h : t.activity = .sending x) : JustChecked t := by
  intro y v hy
  rw [h] at hy
  cases hy

theorem timingOk_of_justChecked {t : State} (h : JustChecked t) : TimingOk t := by
  intro y v hy
  obtain ⟨hin, hat⟩ := h y v hy
  exact ⟨hin, by simp [hat, elapsed]⟩

/-- A check that yields leaves a window that is inside its time. -/
theorem justChecked_of_wait {x : Receiver} {w v : Window} {s : State} (hc : checkWindow w s = .wait v) :
    JustChecked (hold (.receiving x v) (takeRx w s)) := by
  obtain ⟨rfl, -, hin⟩ := checkWindow_wait hc
  intro y u hy
  obtain ⟨rfl, rfl⟩ := Activity.receiving.inj hy
  exact ⟨hin, rfl⟩

theorem endWsr_ended {by_ : Caller} {r : Res} {s t : State} (h : endWsr by_ r s = .next t) : Ended t := by
  obtain ⟨-, rfl⟩ | ⟨-, e, -, rfl⟩ | ⟨-, -, id, plate, -, rfl⟩ := endWsr_cases h <;> exact ⟨rfl, rfl⟩

theorem endRhr_ended (by_ : Caller) (r : Res) (s : State) : Ended (endRhr by_ r s) := by
  cases by_ <;> cases r <;> exact ⟨rfl, rfl⟩

theorem justChecked_of_afterCheck {x : Receiver} {w : Window} {s t : State} (h : AfterCheck x w s t) :
    JustChecked t := by
  induction h with
  | waits hc => exact justChecked_of_wait hc
  | timesOut => exact justChecked_of_ended (errorEnd_activity _ _ _)
  | fails => exact justChecked_of_ended (errorEnd_activity _ _ _)
  | received => exact justChecked_of_ended rfl
  | echoed _ ht => exact justChecked_of_ended (endWsr_ended ht).2
  | opensBody _ _ _ ih => exact ih
  | read => exact justChecked_of_ended (endRhr_ended _ _ _).2

theorem justChecked_of_execOutcome {i : Instr} {s t : State} (ha : s.activity = .none)
    (h : ExecOutcome i s t) : JustChecked t := by
  cases h with
  | receives n limit hn ht => exact justChecked_of_afterCheck ht
  | sends | sendsFrame | writes | reads | starts | polls => exact justChecked_of_sending rfl
  | ignored | refused | crc | built | rejects | returns | arrives => exact justChecked_of_ended ha

/-- The control loop's turn checks an open receive, or leaves the state as it is. -/
theorem timingOk_of_loopOutcome {s t : State} (hs : TimingOk s) (h : LoopOutcome s t) : TimingOk t := by
  cases h with
  | idles => exact hs
  | sent => exact timingOk_of_justChecked (justChecked_of_ended rfl)
  | sentWsr a r v by_ ha ht => exact timingOk_of_justChecked (justChecked_of_afterCheck ht)
  | sentRhr a count by_ ha ht => exact timingOk_of_justChecked (justChecked_of_afterCheck ht)
  | checks x w ha ht => exact timingOk_of_justChecked (justChecked_of_afterCheck ht)
  | refuses ha => exact timingOk_of_justChecked (justChecked_of_ended ha)
  | runs i c rest ha hb hp hi ht => exact timingOk_of_justChecked (justChecked_of_execOutcome (s := popPort s) ha ht)

/-- One tick adds at most one to the time since a moment. -/
theorem elapsed_succ_le (now start : Ms) : (elapsed (now + 1#32) start).toNat ≤ (elapsed now start).toNat + 1 := by
  unfold elapsed
  bv_omega

/-- The clock ticks only while no check is overdue, so that its bound holds after the tick too. -/
theorem timingOk_tickClock {s : State} (hs : TimingOk s) (ho : checkOverdue s = false) : TimingOk (tickClock s) := by
  intro x w ha
  obtain ⟨hin, -⟩ := hs x w ha
  have hbound : (elapsed s.now w.checkedAt).toNat < s.params.rxPollMaxMs := by
    have ha' : s.activity = .receiving x w := ha
    simpa [checkOverdue, ha'] using ho
  exact ⟨hin, (elapsed_succ_le s.now w.checkedAt).trans hbound⟩

/-- Settles O27. A check re-establishes both bounds, the clock keeps them, and no other turn touches them. -/
theorem stepKeepsReceiveTiming : Obligations.StepKeepsReceiveTiming := by
  intro s t hs h
  cases stepOutcome_of_step h with
  | overdue hn ho ht => exact timingOk_of_loopOutcome hs ht
  | loop hn ht => exact timingOk_of_loopOutcome (s := takeTurn s) hs ht
  | clock hn ho => exact timingOk_tickClock (s := takeTurn s) hs ho
  | drain | deliver | present => exact hs
  | reset r => exact timingOk_of_justChecked (justChecked_of_ended rfl)

end Sys2Proof.Proofs.Timing
end

section
/-! SUPPORT. What a step, other than a reset, leaves alone or only adds to (10_state.md). -/

namespace Sys2Proof.Proofs.Frame

open Sys2Proof Sys2Proof.Machine Sys2Proof.Safety Sys2Proof.Proofs.Exchange Sys2Proof.Proofs.Outcome

/-! The end of an exchange changes what the session owns, and there the log only grows. -/

/-- Everything but the session and the result registers is the same, and EVLOG has only grown. -/
def LinkSame (s t : State) : Prop := OtherSame s t ∧ SentSame s t ∧ s.evLog <+: t.evLog

theorem LinkSame.trans {s t u : State} (h : LinkSame s t) (k : LinkSame t u) : LinkSame s u := by
  obtain ⟨ho, hs, hl⟩ := h
  obtain ⟨ko, ks, kl⟩ := k
  exact ⟨OtherSame.trans ho ko, SentSame.trans hs ks, hl.trans kl⟩

theorem linkSame_of_untouched {s t : State} (h : Untouched s t) : LinkSame s t := by
  obtain ⟨-, hsent, ⟨-, -, -, -, -, -, -, -, hlog⟩, hother⟩ := h
  exact ⟨hother, hsent, hlog ▸ List.prefix_rfl⟩

theorem linkSame_emits {s t : State} (es : List Event) (ho : OtherSame s t) (hs : SentSame s t)
    (hl : t.evLog = s.evLog ++ es) : LinkSame s t :=
  ⟨ho, hs, hl ▸ List.prefix_append _ _⟩

theorem linkSame_errorEnd (q : Role) (e : ProtocolError) (s : State) : LinkSame s (errorEnd q e s) := by
  cases q with
  | host => exact linkSame_of_untouched (Untouched.refl s)
  | start => exact linkSame_emits [.startFailed e] ⟨rfl, rfl, rfl, rfl, rfl, rfl⟩ ⟨rfl, rfl, rfl⟩ rfl
  | poll => exact linkSame_emits [.pollFailed e] ⟨rfl, rfl, rfl, rfl, rfl, rfl⟩ ⟨rfl, rfl, rfl⟩ rfl

theorem linkSame_endWsr {by_ : Caller} {r : Res} {s t : State} (h : endWsr by_ r s = .next t) :
    LinkSame s t := by
  obtain ⟨-, rfl⟩ | ⟨-, e, -, rfl⟩ | ⟨-, -, id, plate, -, rfl⟩ := endWsr_cases h
  · exact linkSame_of_untouched (Untouched.refl s)
  · exact linkSame_emits [.startFailed e] ⟨rfl, rfl, rfl, rfl, rfl, rfl⟩ ⟨rfl, rfl, rfl⟩ rfl
  · exact linkSame_emits [.started plate] ⟨rfl, rfl, rfl, rfl, rfl, rfl⟩ ⟨rfl, rfl, rfl⟩ rfl

theorem linkSame_pollOkWith (m : MeterReading) (s : State) : LinkSame s (pollOkWith m s) := by
  rw [pollOkWith]
  split
  · exact linkSame_emits [.updated m, .closed m.sessionCl] ⟨rfl, rfl, rfl, rfl, rfl, rfl⟩ ⟨rfl, rfl, rfl⟩
      (List.append_assoc _ _ _)
  · exact linkSame_emits [.updated m] ⟨rfl, rfl, rfl, rfl, rfl, rfl⟩ ⟨rfl, rfl, rfl⟩ rfl

theorem linkSame_endRhr_ok (by_ : Caller) (s : State) : LinkSame s (endRhr by_ .ok s) := by
  cases by_ with
  | host => exact linkSame_of_untouched (Untouched.refl s)
  | fsm => exact linkSame_pollOkWith (decodeReading s.regs) s

theorem linkSame_storeRead (x : List Byte) (s : State) : LinkSame s (storeRead x s) :=
  ⟨⟨rfl, rfl, rfl, rfl, rfl, rfl⟩, ⟨rfl, rfl, rfl⟩, List.prefix_rfl⟩

/-- A check of a receive pushes nothing and leaves the configuration, the clock and the port alone. -/
theorem linkSame_of_afterCheck {x : Receiver} {w : Window} {s t : State} (h : AfterCheck x w s t) :
    LinkSame s t := by
  induction h with
  | @waits x w v s hc => exact linkSame_of_untouched ((untouched_takeRx w s).trans (untouched_hold _ _))
  | @timesOut x w s hc => exact (linkSame_of_untouched (untouched_takeRx w s)).trans (linkSame_errorEnd _ _ _)
  | fails e hc hu => exact (linkSame_of_untouched (untouched_of_taken hu)).trans (linkSame_errorEnd _ _ _)
  | @received w s g hc => exact linkSame_of_untouched ((untouched_stored g w s).trans (untouched_endCommand _))
  | @echoed w s t g a r v by_ hc ht => exact (linkSame_of_untouched (untouched_stored g w s)).trans (linkSame_endWsr ht)
  | opensBody hc hv ht ih => exact ih
  | @read w s g header count by_ hc =>
    exact ((linkSame_of_untouched (untouched_takeRx w s)).trans (linkSame_storeRead (header ++ g) _)).trans
      (linkSame_endRhr_ok _ _)

/-! What the control loop leaves alone whatever it runs. -/

/-- CFG, the OPEN parameters and NOW are the same, TXTRACE and EVLOG have only grown, and REFUSED stays set. -/
structure LoopFrame (s t : State) : Prop where
  cfg_eq : t.cfg = s.cfg
  params_eq : t.params = s.params
  now_eq : t.now = s.now
  trace_grows : s.txTrace <+: t.txTrace
  log_grows : s.evLog <+: t.evLog
  refused_stays : s.refused = true → t.refused = true

theorem LoopFrame.refl (s : State) : LoopFrame s s :=
  ⟨rfl, rfl, rfl, List.prefix_rfl, List.prefix_rfl, id⟩

theorem LoopFrame.trans {s t u : State} (h : LoopFrame s t) (k : LoopFrame t u) : LoopFrame s u where
  cfg_eq := k.cfg_eq.trans h.cfg_eq
  params_eq := k.params_eq.trans h.params_eq
  now_eq := k.now_eq.trans h.now_eq
  trace_grows := h.trace_grows.trans k.trace_grows
  log_grows := h.log_grows.trans k.log_grows
  refused_stays := k.refused_stays ∘ h.refused_stays

theorem loopFrame_of_linkSame {s t : State} (h : LinkSame s t) : LoopFrame s t := by
  obtain ⟨⟨hcfg, hparams, -, hrefused, hnow, -⟩, ⟨-, -, htrace⟩, hlog⟩ := h
  exact ⟨hcfg, hparams, hnow, htrace ▸ List.prefix_rfl, hlog, fun hr => hrefused.trans hr⟩

theorem loopFrame_of_execOutcome {i : Instr} {s t : State} (h : ExecOutcome i s t) : LoopFrame s t := by
  cases h with
  | receives n limit hn ht => exact loopFrame_of_linkSame (linkSame_of_afterCheck ht)
  | ignored | refused | crc | built | sends | sendsFrame | writes | reads | rejects | starts | polls | returns
    | arrives => constructor <;> simp

/-- Only CRC_INIT and CRC_BYTE write CRCREG (R15). -/
theorem crcReg_of_execOutcome {i : Instr} {s t : State} (h : ExecOutcome i s t) :
    t.crcReg = s.crcReg ∨ i = .crcInit ∨ ∃ d, i = .crcByte d := by
  cases h with
  | crc c hi => exact .inr hi
  | receives n limit hn ht =>
    obtain ⟨⟨-, -, hcrc, -⟩, -⟩ := linkSame_of_afterCheck ht
    exact .inl hcrc
  | ignored | refused | built | sends | sendsFrame | writes | reads | rejects | starts | polls | returns | arrives =>
    exact .inl (by simp)

/-- Settles O20. Of all an instruction can lead to, only the rule's refusal writes REFUSED. -/
theorem refusedForExactlyTheRulesReasons : Obligations.RefusedForExactlyTheRulesReasons := by
  refine fun i s => ⟨fun hr => ?_, fun t hr h => ?_⟩
  · obtain ⟨q, hq⟩ := exec_of_refusedByRule hr
    exact hq
  · cases execOutcome_of_exec h with
    | refused q hi => exact absurd hi hr
    | receives n limit hn ht =>
      obtain ⟨⟨-, -, -, hrefused, -⟩, -⟩ := linkSame_of_afterCheck ht
      exact hrefused
    | ignored | crc | built | sends | sendsFrame | writes | reads | rejects | starts | polls | returns | arrives =>
      simp

/-- The control loop's turn goes on with an exchange, or it accepts a command (R22). -/
theorem linkSame_or_accepted {s t : State} (h : LoopOutcome s t) :
    LinkSame s t ∨
      s.activity = .none ∧ s.busy = false ∧
        (t = refuse .illegalCommand (popPort s) ∨
          ∃ i c rest, s.port = c :: rest ∧ decodeCommand c = .ok i ∧ ExecOutcome i (popPort s) t) := by
  have hde : LinkSame s (setDe false s) := linkSame_of_untouched (untouched_setDe false s)
  cases h with
  | idles => exact .inl (linkSame_of_untouched (Untouched.refl s))
  | sent => exact .inl (hde.trans (linkSame_of_untouched (untouched_endCommand _)))
  | sentWsr a r v by_ ha ht => exact .inl (hde.trans (linkSame_of_afterCheck ht))
  | sentRhr a count by_ ha ht => exact .inl (hde.trans (linkSame_of_afterCheck ht))
  | checks x w ha ht => exact .inl (linkSame_of_afterCheck ht)
  | refuses ha hb => exact .inr ⟨ha, hb, .inl rfl⟩
  | runs i c rest ha hb hp hi ht => exact .inr ⟨ha, hb, .inr ⟨i, c, rest, hp, hi, ht⟩⟩

/-- While BUSY is 1 no command is accepted (R22). -/
theorem linkSame_of_busy {s t : State} (hb : s.busy = true) (h : LoopOutcome s t) : LinkSame s t := by
  obtain hlink | ⟨-, hidle, -⟩ := linkSame_or_accepted h
  · exact hlink
  · exact absurd hb (hidle ▸ Bool.false_ne_true)

theorem loopFrame_of_loopOutcome {s t : State} (h : LoopOutcome s t) : LoopFrame s t := by
  have hpop : LoopFrame s (popPort s) := by constructor <;> simp
  obtain hlink | ⟨-, -, rfl | ⟨i, c, rest, -, -, ht⟩⟩ := linkSame_or_accepted h
  · exact loopFrame_of_linkSame hlink
  · constructor <;> simp
  · exact hpop.trans (loopFrame_of_execOutcome ht)

/-! Across a step that is no reset. -/

/-- Of the agents, only the control loop adds to TXTRACE and EVLOG or sets REFUSED. -/
theorem grows_of_stepOutcome {s t : State} (hr : ¬resetTurn s) (h : StepOutcome s t) :
    s.txTrace <+: t.txTrace ∧ s.evLog <+: t.evLog ∧ (s.refused = true → t.refused = true) := by
  cases h with
  | overdue hn ho ht =>
    have k := loopFrame_of_loopOutcome ht
    exact ⟨k.trace_grows, k.log_grows, k.refused_stays⟩
  | loop hn ht =>
    have k := loopFrame_of_loopOutcome ht
    exact ⟨k.trace_grows, k.log_grows, k.refused_stays⟩
  | clock | drain | deliver | present => simp
  | reset r hn => exact absurd ⟨r, hn⟩ hr

/-- Settles O58. -/
theorem logsOnlyGrow : Obligations.LogsOnlyGrow :=
  fun _ _ hr h => grows_of_stepOutcome hr (stepOutcome_of_step h)

/-- While a command is in progress the control loop pushes nothing and takes nothing from the port. -/
theorem busy_of_stepOutcome {s t : State} (hb : s.busy = true) (hr : ¬resetTurn s) (h : StepOutcome s t) :
    t.txTrace = s.txTrace ∧ s.port <+: t.port := by
  cases h with
  | overdue hn ho ht =>
    obtain ⟨⟨-, -, -, -, -, hport⟩, ⟨-, -, htrace⟩, -⟩ := linkSame_of_busy hb ht
    exact ⟨htrace, hport ▸ List.prefix_rfl⟩
  | loop hn ht =>
    obtain ⟨⟨-, -, -, -, -, hport⟩, ⟨-, -, htrace⟩, -⟩ := linkSame_of_busy (s := takeTurn s) hb ht
    exact ⟨htrace, hport ▸ List.prefix_rfl⟩
  | clock | drain | deliver | present => simp
  | reset r hn => exact absurd ⟨r, hn⟩ hr

/-- Settles O57. Presenting appends to the port, and only an accepted command leaves it. -/
theorem busyHoldsWaitingCommands : Obligations.BusyHoldsWaitingCommands :=
  ⟨fun _ _ hn => step_present hn, fun _ _ hb hr h => (busy_of_stepOutcome hb hr (stepOutcome_of_step h)).2⟩

/-- Settles O60. -/
theorem nothingIsPushedWhileBusy : Obligations.NothingIsPushedWhileBusy :=
  fun _ _ hb hr h => (busy_of_stepOutcome hb hr (stepOutcome_of_step h)).1

/-- The control loop's turn writes CRCREG only in a CRC_INIT or a CRC_BYTE that it accepts. -/
theorem crcReg_of_loopOutcome {s t : State} (h : LoopOutcome s t) :
    t.crcReg = s.crcReg ∨
      s.activity = .none ∧ s.busy = false ∧
        ∃ i c rest, s.port = c :: rest ∧ decodeCommand c = .ok i ∧ (i = .crcInit ∨ ∃ d, i = .crcByte d) := by
  obtain ⟨⟨-, -, hcrc, -⟩, -⟩ | ⟨ha, hb, rfl | ⟨i, c, rest, hp, hi, ht⟩⟩ := linkSame_or_accepted h
  · exact .inl hcrc
  · exact .inl (by simp)
  · obtain hcrc | hcrc := crcReg_of_execOutcome ht
    · exact .inl hcrc
    · exact .inr ⟨ha, hb, i, c, rest, hp, hi, hcrc⟩

/-- Settles O59. At an overdue check a receive is open, so that no command is accepted there. -/
theorem onlyTheirOwnersWriteRegisters : Obligations.OnlyTheirOwnersWriteRegisters := by
  refine ⟨fun s hn ho => step_clock hn ho, fun s t hr h => ?_⟩
  cases stepOutcome_of_step h with
  | overdue hn ho ht =>
    have k := loopFrame_of_loopOutcome ht
    refine ⟨k.cfg_eq, k.params_eq, .inl k.now_eq, ?_⟩
    obtain hcrc | ⟨ha, -⟩ := crcReg_of_loopOutcome ht
    · exact .inl hcrc
    · simp [checkOverdue, ha] at ho
  | loop hn ht =>
    have k := loopFrame_of_loopOutcome ht
    refine ⟨k.cfg_eq, k.params_eq, .inl k.now_eq, ?_⟩
    obtain hcrc | ⟨ha, hb, i, c, rest, hp, hi, rfl | ⟨d, rfl⟩⟩ := crcReg_of_loopOutcome ht
    · exact .inl hcrc
    · exact .inr (.inl ⟨ha, hb, hn, c, rest, hp, hi⟩)
    · exact .inr (.inr ⟨d, ha, hb, hn, c, rest, hp, hi⟩)
  | clock hn => exact ⟨rfl, rfl, .inr ⟨hn, rfl⟩, .inl rfl⟩
  | drain | deliver | present => exact ⟨rfl, rfl, .inl rfl, .inl rfl⟩
  | reset r hn => exact absurd ⟨r, hn⟩ hr

end Sys2Proof.Proofs.Frame
end

section
/-! SUPPORT. The consistent state in three parts: the buffers, the hold of the control loop, and the session. Each
operation keeps the parts it touches, and every step's outcome is put together from them. -/

namespace Sys2Proof.Proofs.Consistent

open Sys2Proof Sys2Proof.Machine Sys2Proof.Safety Sys2Proof.Proofs.Exchange Sys2Proof.Proofs.Outcome
open Sys2Proof.Proofs.Frame

/-- The bounds of RXQ, RXLEN and REGCOUNT, and what TXTRACE may hold (R17, R18, R20, R77, R84). -/
structure BuffersOk (s : State) : Prop where
  rxq_fits : fits s.params.rxCapacity s.rxq.length
  rxLen_le : s.rxLen.toNat ≤ 69
  regCount_le : s.regCount.toNat ≤ 32
  trace_transmit : ∀ e ∈ s.txTrace, e.2 = true
  trace_valid : s.txValid = false → s.txTrace = []

/-- BUSY and DE say what the control loop is held in, and the exchange has its rule's operands (R22, R79). -/
structure HoldOk (s : State) : Prop where
  busy_iff : s.busy = true ↔ s.activity ≠ .none
  de_eq : s.de = sendInProgress s.activity
  activity_ok : ActivityOk s.cfg s.activity

/-- The session elements agree, with the start write in progress exactly if `starting` and a poll if `polling`
(R92 to R98). -/
structure SessionOk (starting polling : Bool) (s : State) : Prop where
  starting_iff : s.fsm = .sessionStarting ↔ starting = true
  pending_iff : s.pending.isSome = true ↔ s.fsm = .sessionStarting
  poll_active : polling = true → s.fsm = .sessionActive ∧ s.seedPending = false
  active_iff : s.session.active = true ↔ s.fsm = .sessionActive
  idle_empty : s.fsm = .idle ∨ s.fsm = .sessionStarting → s.session = emptySession
  inactive_clear : s.fsm ≠ .sessionActive → s.prevActive = false ∧ s.seedPending = false
  volume_eq : s.fsm = .sessionActive ∨ s.fsm = .sessionClosing → s.session.lastCl = volumeOf s.lastReading
  edge_eq : s.fsm = .sessionActive →
    s.prevActive = (s.lastReading.map fun m => sessionActiveBit m.status).getD false

/-- The session as the exchange in progress in `a` has it. -/
abbrev SessionOf (a : Activity) (s : State) : Prop := SessionOk (startInProgress a) (pollInProgress a) s

theorem stateOk_iff {s : State} : StateOk s ↔ BuffersOk s ∧ HoldOk s ∧ SessionOf s.activity s := by
  constructor
  · intro h
    exact ⟨⟨h.rxq_fits, h.rxLen_le, h.regCount_le, h.trace_transmit, h.trace_valid⟩,
      ⟨h.busy_iff, h.de_eq, h.activity_ok⟩,
      ⟨h.starting_iff, h.pending_iff, h.poll_active, h.active_iff, h.idle_empty, h.inactive_clear, h.volume_eq,
        h.edge_eq⟩⟩
  · rintro ⟨hb, hh, hs⟩
    exact ⟨hh.busy_iff, hh.de_eq, hb.rxq_fits, hb.rxLen_le, hb.regCount_le, hb.trace_transmit, hb.trace_valid,
      hh.activity_ok, hs.starting_iff, hs.pending_iff, hs.poll_active, hs.active_iff, hs.idle_empty,
      hs.inactive_clear, hs.volume_eq, hs.edge_eq⟩

/-! The buffers. -/

section
variable {s t : State}

/-- What an exchange leaves untouched leaves the buffers in bounds, if it takes from RXQ and keeps to RXBUF. -/
theorem BuffersOk.of_untouched (h : BuffersOk s) (hu : Untouched s t) (hq : t.rxq.length ≤ s.rxq.length)
    (hl : t.rxLen.toNat ≤ 69) : BuffersOk t := by
  obtain ⟨⟨-, hcount⟩, ⟨-, hvalid, htrace⟩, -, ⟨-, hparams, -⟩⟩ := hu
  exact ⟨hparams ▸ fits_mono h.rxq_fits hq, hl, hcount ▸ h.regCount_le, htrace ▸ h.trace_transmit,
    hvalid ▸ htrace ▸ h.trace_valid⟩

/-- The session's moves do not touch the buffers. -/
theorem BuffersOk.of_same (h : BuffersOk s) (hparams : t.params = s.params := by simp)
    (hrxq : t.rxq = s.rxq := by simp) (hlen : t.rxLen = s.rxLen := by simp)
    (hcount : t.regCount = s.regCount := by simp) (htrace : t.txTrace = s.txTrace := by simp)
    (hvalid : t.txValid = s.txValid := by simp) : BuffersOk t :=
  ⟨hparams ▸ hrxq ▸ h.rxq_fits, hlen ▸ h.rxLen_le, hcount ▸ h.regCount_le, htrace ▸ h.trace_transmit,
    hvalid ▸ htrace ▸ h.trace_valid⟩

theorem BuffersOk.takeRx (h : BuffersOk s) (w : Window) : BuffersOk (takeRx w s) :=
  h.of_untouched (untouched_takeRx w s) (by simp) h.rxLen_le

theorem ofNat_seven_toNat_le {n : Nat} (h : n ≤ 69) : (BitVec.ofNat 7 n).toNat ≤ 69 := by
  rw [BitVec.toNat_ofNat]
  exact (Nat.mod_le _ _).trans h

theorem BuffersOk.storeResponse (h : BuffersOk s) {x : List Byte} (hx : x.length ≤ 69) :
    BuffersOk (storeResponse x s) :=
  h.of_untouched (untouched_storeResponse x s) (Nat.le_refl _) (ofNat_seven_toNat_le hx)

/-- An error needs no bound on what RXBUF held: RXLEN is 0 (R104). -/
theorem BuffersOk.errorEnd (h : BuffersOk s) (hu : Untouched s t) (hq : t.rxq.length ≤ s.rxq.length) (q : Role)
    (e : ProtocolError) : BuffersOk (errorEnd q e t) := by
  have ht : BuffersOk (raise e t) := h.of_untouched (hu.trans (untouched_raise e t)) hq (by simp)
  exact ht.of_same

theorem BuffersOk.storeRead (h : BuffersOk s) {x : List Byte} {n : Nat} (hx : x.length = 2 * n + 5) (hn : n ≤ 32) :
    BuffersOk (storeRead x s) := by
  have hdata : (responseData x).length = 2 * n := by simp [responseData, hx]
  have hstored := h.storeResponse (x := x) (by omega)
  refine ⟨hstored.rxq_fits, hstored.rxLen_le, ?_, hstored.trace_transmit, hstored.trace_valid⟩
  simp only [Exchange.storeRead, setRes_regCount, storeRegs_regCount, decodeRegs_length n _ hdata,
    BitVec.toNat_ofNat]
  exact (Nat.mod_le _ _).trans hn

/-- A send pushes with DE = 1 (R77), once a frame is built (R84). -/
theorem BuffersOk.startSend (h : BuffersOk s) (hv : s.txValid = true) (x : Sender) (f : List Byte) :
    BuffersOk (startSend x f s) where
  rxq_fits := fits_mono h.rxq_fits (by simp)
  rxLen_le := h.rxLen_le
  regCount_le := h.regCount_le
  trace_transmit := by
    intro e he
    simp only [startSend_txTrace, List.mem_append, List.mem_map] at he
    obtain he | ⟨b, -, rfl⟩ := he
    · exact h.trace_transmit e he
    · rfl
  trace_valid := by simp [hv]

theorem BuffersOk.loadTx (h : BuffersOk s) (f : Vector Byte 8) : BuffersOk (loadTx f s) :=
  ⟨h.rxq_fits, h.rxLen_le, h.regCount_le, h.trace_transmit, by simp⟩

theorem BuffersOk.clearRegCount (h : BuffersOk s) : BuffersOk (clearRegCount s) :=
  ⟨h.rxq_fits, h.rxLen_le, by simp, h.trace_transmit, h.trace_valid⟩

theorem fits_appendRx {capacity : Option Nat} {queue : List Byte} (h : fits capacity queue.length)
    (bytes : List Byte) : fits capacity (appendRx capacity queue bytes).length := by
  rintro n rfl
  have hq := h n rfl
  simp only [appendRx, List.length_append, List.length_take]
  omega

theorem BuffersOk.deliverBytes (h : BuffersOk s) (b : List Byte) : BuffersOk (deliverBytes b s) :=
  ⟨fits_appendRx h.rxq_fits b, h.rxLen_le, h.regCount_le, h.trace_transmit, h.trace_valid⟩

end

/-! The session. -/

section
variable {s t : State} {b p : Bool}

theorem SessionOk.of_sessionSame (h : SessionOk b p s) (hst : SessionSame s t) : SessionOk b p t := by
  obtain ⟨hfsm, hprev, hseed, -, -, hpending, hsession, hreading, -⟩ := hst
  exact ⟨hfsm ▸ h.starting_iff, by rw [hfsm, hpending]; exact h.pending_iff,
    by rw [hfsm, hseed]; exact h.poll_active, by rw [hfsm, hsession]; exact h.active_iff,
    by rw [hfsm, hsession]; exact h.idle_empty, by rw [hfsm, hprev, hseed]; exact h.inactive_clear,
    by rw [hfsm, hsession, hreading]; exact h.volume_eq, by rw [hfsm, hprev, hreading]; exact h.edge_eq⟩

theorem SessionOk.of_untouched (h : SessionOk b p s) (hu : Untouched s t) : SessionOk b p t :=
  h.of_sessionSame hu.sessionSame

/-- A poll is over, and the session stays as it is (R97). -/
theorem SessionOk.poll_over (h : SessionOk b p s) : SessionOk b false s :=
  { h with poll_active := nofun }

/-- A failed start write leads back to Idle, where the record is empty as it was (R95). -/
theorem SessionOk.startFail (h : SessionOk true p s) (e : ProtocolError) : SessionOk false false (startFail e s) := by
  have hf : s.fsm = .sessionStarting := h.starting_iff.mpr rfl
  have hempty := h.idle_empty (.inr hf)
  have hclear := h.inactive_clear (by simp [hf])
  constructor <;> simp [hempty, hclear, emptySession]

/-- The start write's echo begins the session (R94). -/
theorem SessionOk.startOkWith (id : CardId) (plate : Plate) : SessionOk false false (startOkWith id plate s) := by
  constructor <;> simp [volumeOf]

theorem SessionOk.pollFail (h : SessionOk b p s) (e : ProtocolError) : SessionOk b false (pollFail e s) :=
  ⟨h.starting_iff, h.pending_iff, nofun, h.active_iff, h.idle_empty, h.inactive_clear, h.volume_eq, h.edge_eq⟩

/-- A reading moves the volume and the edge; on the falling edge the session closes (R97, R98). -/
theorem SessionOk.pollOkWith (h : SessionOk false true s) (m : MeterReading) :
    SessionOk false false (pollOkWith m s) := by
  obtain ⟨hf, hseed⟩ := h.poll_active rfl
  have hpending : s.pending = none := by simpa [hf] using h.pending_iff
  have hactive : s.session.active = true := h.active_iff.mpr hf
  rw [Machine.pollOkWith]
  split
  case isTrue hfall =>
    have hcur : sessionActiveBit m.status = false := by
      simp only [fallingEdge, Bool.and_eq_true, Bool.not_eq_true'] at hfall
      exact hfall.2
    constructor <;> simp [hseed, hpending, hcur, volumeOf]
  case isFalse => constructor <;> simp [hf, hpending, hactive, volumeOf]

/-- The summary window ends in Idle, with an empty record (R96). -/
theorem SessionOk.returnToIdle (h : SessionOk false p s) (hf : s.fsm = .sessionClosing) :
    SessionOk false false (returnToIdle s) := by
  have hpending : s.pending = none := by simpa [hf] using h.pending_iff
  have hclear := h.inactive_clear (by simp [hf])
  constructor <;> simp [hpending, hclear, emptySession]

/-- An accepted card is in PENDING while the start write runs (R93). -/
theorem SessionOk.beginStart (h : SessionOk false p s) (hf : s.fsm = .idle) (id : CardId) (plate : Plate) :
    SessionOk true false (beginStart id plate s) := by
  have hempty := h.idle_empty (.inl hf)
  have hclear := h.inactive_clear (by simp [hf])
  constructor <;> simp [hempty, hclear, emptySession]

/-- A poll begins: the seed poll is no longer due (R97). -/
theorem SessionOk.beginPoll (h : SessionOk false p s) (hf : s.fsm = .sessionActive) :
    SessionOk false true (beginPoll s) := by
  have hpending : s.pending = none := by simpa [hf] using h.pending_iff
  have hactive : s.session.active = true := h.active_iff.mpr hf
  constructor <;> simp [hf, hpending, hactive, h.volume_eq (.inl hf), h.edge_eq hf]

end

/-! The states the control loop stops at. -/

/-- Between two commands. -/
theorem stateOk_of_idle {t : State} (hb : BuffersOk t) (ha : t.activity = .none) (hbusy : t.busy = false)
    (hde : t.de = false) (hs : SessionOk false false t) : StateOk t :=
  stateOk_iff.mpr ⟨hb, ⟨by simp [ha, hbusy], by simp [ha, hde, sendInProgress], by simp [ha, ActivityOk]⟩,
    by rw [ha]; exact hs⟩

theorem stateOk_endCommand {u : State} (hb : BuffersOk u) (hde : u.de = false) (hs : SessionOk false false u) :
    StateOk (endCommand u) :=
  stateOk_of_idle (hb.of_same) rfl rfl hde (hs.of_untouched (untouched_endCommand u))

/-- In the await of a send. -/
theorem stateOk_startSend {u : State} {x : Sender} {f : List Byte} (hb : BuffersOk u) (hv : u.txValid = true)
    (ha : ActivityOk u.cfg (.sending x)) (hs : SessionOf (.sending x) u) : StateOk (startSend x f u) :=
  stateOk_iff.mpr ⟨hb.startSend hv x f, ⟨by simp, by simp [sendInProgress], by simpa using ha⟩,
    hs.of_sessionSame (by simp [SessionSame])⟩

/-- In the yield of a receive. -/
theorem stateOk_hold {u : State} {x : Receiver} {w : Window} (hb : BuffersOk u) (hde : u.de = false)
    (ha : ActivityOk u.cfg (.receiving x w)) (hs : SessionOf (.receiving x w) u) :
    StateOk (hold (.receiving x w) u) :=
  stateOk_iff.mpr ⟨hb.of_same, ⟨by simp, by simp [sendInProgress, hde], by simpa using ha⟩,
    hs.of_untouched (untouched_hold _ u)⟩

/-! A check of a receive. -/

/-- A check of the receive `x` may be made: no send is in progress, and the exchange has its rule's operands. -/
structure CheckOk (x : Receiver) (w : Window) (s : State) : Prop where
  buffers : BuffersOk s
  de_low : s.de = false
  operands : ActivityOk s.cfg (.receiving x w)
  session : SessionOf (.receiving x w) s

theorem windowOk_of_activityOk {cfg : Cfg} {x : Receiver} {w : Window} (h : ActivityOk cfg (.receiving x w)) :
    WindowOk w := by
  cases x with
  | command => exact h
  | wsr | header | body => exact h.1

/-- A window that stays open keeps its operands, and still lacks bytes (R80). -/
theorem activityOk_of_wait {cfg : Cfg} {x : Receiver} {w v : Window} {s : State}
    (h : ActivityOk cfg (.receiving x w)) (hc : checkWindow w s = .wait v) : ActivityOk cfg (.receiving x v) := by
  obtain ⟨rfl, hne, -⟩ := checkWindow_wait hc
  obtain ⟨hlt, hle⟩ := windowOk_of_activityOk h
  have hopen : WindowOk { w with got := bytesTaken w s, checkedAt := s.now } :=
    ⟨Nat.lt_of_le_of_ne (bytesTaken_length_le (Nat.le_of_lt hlt)) hne, hle⟩
  cases x with
  | command => exact hopen
  | wsr | header | body => exact ⟨hopen, h.2⟩

theorem sessionOf_window {x : Receiver} {w v : Window} {s : State} (h : SessionOf (.receiving x w) s) :
    SessionOf (.receiving x v) s := by
  cases x with
  | command => exact h
  | wsr a r v by_ => cases by_ <;> exact h
  | header a count by_ => cases by_ <;> exact h
  | body count header by_ => cases by_ <;> exact h

/-- However an exchange ends in an error, the session is consistent again. -/
theorem sessionOk_errorEnd {x : Receiver} {w : Window} {u : State} (h : SessionOf (.receiving x w) u)
    (e : ProtocolError) : SessionOk false false (errorEnd (roleOf x) e u) := by
  have hraise : SessionOf (.receiving x w) (raise e u) :=
    h.of_untouched (untouched_raise e u)
  cases x with
  | command => exact hraise.of_untouched (untouched_endCommand _)
  | wsr a r v by_ =>
    cases by_ with
    | host => exact hraise.of_untouched (untouched_endCommand _)
    | fsm => exact (hraise.startFail e).of_untouched (untouched_endCommand _)
  | header a count by_ =>
    cases by_ with
    | host => exact hraise.of_untouched (untouched_endCommand _)
    | fsm => exact (hraise.pollFail e).of_untouched (untouched_endCommand _)
  | body count header by_ =>
    cases by_ with
    | host => exact hraise.of_untouched (untouched_endCommand _)
    | fsm => exact (hraise.pollFail e).of_untouched (untouched_endCommand _)

theorem stateOk_errorEnd {x : Receiver} {w : Window} {s u : State} (h : CheckOk x w s) (hu : Untouched s u)
    (hq : u.rxq.length ≤ s.rxq.length) (hde : u.de = s.de) (e : ProtocolError) :
    StateOk (errorEnd (roleOf x) e u) :=
  stateOk_of_idle (h.buffers.errorEnd hu hq _ e) (errorEnd_activity _ _ _) (errorEnd_busy _ _ _)
    (by rw [errorEnd_de, hde, h.de_low]) (sessionOk_errorEnd (h.session.of_untouched hu) e)

/-- What a completed check has in hand (R80). -/
theorem length_le_of_bytes {x : Receiver} {w : Window} {s : State} {g : List Byte} (h : CheckOk x w s)
    (hc : checkWindow w s = .bytes g) : g.length ≤ 69 := by
  obtain ⟨-, hlen⟩ := checkWindow_bytes hc
  exact hlen ▸ (windowOk_of_activityOk h.operands).2

theorem stored_buffersOk {x : Receiver} {w : Window} {s : State} {g : List Byte} (h : CheckOk x w s)
    (hc : checkWindow w s = .bytes g) : BuffersOk (setRes .ok (storeResponse g (takeRx w s))) :=
  ((h.buffers.takeRx w).storeResponse (length_le_of_bytes h hc)).of_same

/-- A correct header's body receive may make its first check (R89). -/
theorem checkOk_body {a : Byte} {count : Word} {by_ : Caller} {w : Window} {s : State} {g : List Byte}
    (h : CheckOk (.header a count by_) w s) (hc : checkWindow w s = .bytes g)
    (hv : headerVerdict a count g = .ok) :
    CheckOk (.body count g by_) (bodyWindow g (takeRx w s)) (takeRx w s) := by
  obtain ⟨-, hneed, -, hrange, hfsm⟩ := h.operands
  obtain ⟨-, hlen⟩ := checkWindow_bytes hc
  obtain ⟨-, -, hcount⟩ := headerVerdict_ok hv
  obtain ⟨-, hle⟩ := countInRange_iff.mp hrange
  refine ⟨h.buffers.takeRx w, h.de_low, ?_, ?_⟩
  · exact ⟨⟨by simp [bodyWindow], by simp only [bodyWindow, openWindow_need]; omega⟩, hlen.trans hneed, hcount,
      by simp only [bodyWindow, openWindow_need, hcount], rfl, hrange, fun hb => (hfsm hb).2⟩
  · have hsession := h.session.of_untouched (untouched_takeRx w s)
    cases by_ <;> exact hsession

theorem stateOk_endWsr_ok {a : Byte} {r v : Word} {by_ : Caller} {w : Window} {u t : State} (hb : BuffersOk u)
    (hde : u.de = false) (hs : SessionOf (.receiving (.wsr a r v by_) w) u) (h : endWsr by_ .ok u = .next t) :
    StateOk t := by
  obtain ⟨rfl, rfl⟩ | ⟨-, e, he, -⟩ | ⟨-, -, id, plate, -, rfl⟩ := endWsr_cases h
  · exact stateOk_endCommand hb hde hs
  · cases he
  · exact stateOk_endCommand (hb.of_same) hde (SessionOk.startOkWith id plate)

theorem buffersOk_pollOk {u : State} (hb : BuffersOk u) : BuffersOk (pollOk u) := by
  rw [pollOk, pollOkWith]
  split <;> exact hb.of_same

theorem pollOk_de (u : State) : (pollOk u).de = u.de := by
  rw [pollOk, pollOkWith]
  split <;> rfl

theorem stateOk_endRhr_ok {count : Word} {header : List Byte} {by_ : Caller} {w : Window} {u : State}
    (hb : BuffersOk u) (hde : u.de = false) (hs : SessionOf (.receiving (.body count header by_) w) u) :
    StateOk (endRhr by_ .ok u) := by
  cases by_ with
  | host => exact stateOk_endCommand hb hde hs
  | fsm =>
    exact stateOk_endCommand (buffersOk_pollOk hb) ((pollOk_de u).trans hde) (SessionOk.pollOkWith hs _)

/-- A check of a receive leads to a consistent state. -/
theorem stateOk_of_afterCheck {x : Receiver} {w : Window} {s t : State} (h : AfterCheck x w s t)
    (hok : CheckOk x w s) : StateOk t := by
  induction h with
  | @waits x w v s hc =>
    exact stateOk_hold (hok.buffers.takeRx w) hok.de_low (activityOk_of_wait hok.operands hc)
      (sessionOf_window (hok.session.of_untouched (untouched_takeRx w s)))
  | @timesOut x w s hc => exact stateOk_errorEnd hok (untouched_takeRx w s) (by simp) rfl .timeout
  | fails e hc hu =>
    obtain rfl | ⟨b, rfl⟩ := id hu
    · exact stateOk_errorEnd hok (untouched_of_taken hu) (by simp) rfl e
    · exact stateOk_errorEnd hok (untouched_of_taken hu) (by simp) rfl e
  | @received w s g hc =>
    exact stateOk_endCommand (stored_buffersOk hok hc) hok.de_low (hok.session.of_untouched (untouched_stored g w s))
  | @echoed w s t g a r v by_ hc ht =>
    exact stateOk_endWsr_ok (stored_buffersOk hok hc) hok.de_low
      (hok.session.of_untouched (untouched_stored g w s)) ht
  | opensBody hc hv ht ih => exact ih (checkOk_body hok hc hv)
  | @read w s g header count by_ hc =>
    obtain ⟨-, hheader, -, hneed, -, hrange, -⟩ := hok.operands
    obtain ⟨-, hlen⟩ := checkWindow_bytes hc
    have hx : (header ++ g).length = 2 * count.toNat + 5 := by simp [hheader, hlen, hneed]; omega
    have hsession := (hok.session.of_untouched (untouched_takeRx w s)).of_sessionSame
      (sessionSame_storeRead (header ++ g) (takeRx w s))
    exact stateOk_endRhr_ok ((hok.buffers.takeRx w).storeRead hx (countInRange_iff.mp hrange).2) hok.de_low hsession

/-! An instruction, run between two commands. -/

theorem txValid_of_loadTx (f : Vector Byte 8) (s : State) : (loadTx f s).txValid = true := rfl

/-- A command that the port can hold leads from a consistent state between two commands to a consistent state. A
request frame run as an instruction is no such command (log 13). -/
theorem stateOk_of_execOutcome {i : Instr} {s t : State} (hi : ∀ f, encode i ≠ .outbound f) (hs : StateOk s)
    (ha : s.activity = .none) (h : ExecOutcome i s t) : StateOk t := by
  obtain ⟨hbuf, hhold, hsession⟩ := stateOk_iff.mp hs
  have hbusy : s.busy = false := by simpa [ha] using hhold.busy_iff
  have hde : s.de = false := by simpa [ha, sendInProgress] using hhold.de_eq
  rw [ha] at hsession
  have hidle : SessionOk false false s := hsession
  cases h with
  | ignored => exact hs
  | refused q =>
    exact stateOk_of_idle hbuf.of_same ha hbusy hde (hidle.of_sessionSame (by simp [SessionSame]))
  | crc c => exact stateOk_of_idle hbuf.of_same ha hbusy hde (hidle.of_sessionSame (by simp [SessionSame]))
  | built f =>
    exact stateOk_of_idle (hbuf.loadTx f) ha hbusy hde (hidle.of_sessionSame (by simp [SessionSame]))
  | sends hv => exact stateOk_startSend hbuf hv trivial hidle
  | sendsFrame f hf => exact absurd hf (hi f)
  | receives n limit hn ht =>
    have hopen : WindowOk (openWindow n limit s) := ⟨by simp; omega, hn.2⟩
    exact stateOk_of_afterCheck ht ⟨hbuf, hde, hopen, hidle⟩
  | writes a r v f =>
    exact stateOk_startSend (hbuf.loadTx f) rfl (by simp [ActivityOk])
      (hidle.of_sessionSame (by simp [SessionSame]))
  | reads a count f hc =>
    exact stateOk_startSend (hbuf.loadTx f).clearRegCount rfl (by simp [ActivityOk, hc])
      (hidle.of_sessionSame (by simp [SessionSame]))
  | rejects id hf =>
    exact stateOk_of_idle hbuf.of_same ha hbusy hde
      ⟨hidle.starting_iff, hidle.pending_iff, nofun, hidle.active_iff, hidle.idle_empty, hidle.inactive_clear,
        hidle.volume_eq, hidle.edge_eq⟩
  | starts id plate f hf =>
    have hbegun : BuffersOk (beginStart id plate s) := hbuf.of_same
    exact stateOk_startSend (hbegun.loadTx f) rfl (by simp [ActivityOk])
      ((hidle.beginStart hf id plate).of_sessionSame (by simp [SessionSame]))
  | polls f hf =>
    have hbegun : BuffersOk (beginPoll s) := hbuf.of_same
    exact stateOk_startSend (hbegun.loadTx f).clearRegCount rfl (by simp [ActivityOk, countInRange])
      ((hidle.beginPoll hf).of_sessionSame (by simp [SessionSame]))
  | returns hf => exact stateOk_of_idle hbuf.of_same ha hbusy hde (hidle.returnToIdle hf)
  | arrives b =>
    exact stateOk_of_idle (hbuf.deliverBytes b) ha hbusy hde (hidle.of_sessionSame (by simp [SessionSame]))

/-! The control loop's turn. -/

/-- At the end of a send its receive may make its first check: DE is 0 again (R77 step 5). -/
theorem checkOk_of_sent {s : State} {x : Receiver} {w : Window} (hs : StateOk s)
    (ho : ActivityOk s.cfg (.receiving x w)) (hsession : SessionOf (.receiving x w) s) :
    CheckOk x w (setDe false s) := by
  obtain ⟨hbuf, -, -⟩ := stateOk_iff.mp hs
  exact ⟨hbuf.of_same, rfl, ho, hsession.of_untouched (untouched_setDe false s)⟩

theorem stateOk_of_loopOutcome {s t : State} (hs : StateOk s) (h : LoopOutcome s t) : StateOk t := by
  obtain ⟨hbuf, hhold, hsession⟩ := stateOk_iff.mp hs
  have hops := hhold.activity_ok
  cases h with
  | idles => exact hs
  | sent ha =>
    rw [ha] at hsession
    have hde : BuffersOk (setDe false s) := hbuf.of_same
    exact stateOk_endCommand hde rfl (hsession.of_untouched (untouched_setDe false s))
  | sentWsr a r v by_ ha ht =>
    rw [ha] at hops hsession
    have hopen : ActivityOk s.cfg (.receiving (.wsr a r v by_) (openWindow 8 s.cfg.writeTimeoutMs s)) :=
      ⟨⟨by simp, by simp⟩, rfl, rfl, hops⟩
    exact stateOk_of_afterCheck ht (checkOk_of_sent hs hopen (by cases by_ <;> exact hsession))
  | sentRhr a count by_ ha ht =>
    rw [ha] at hops hsession
    have hopen : ActivityOk s.cfg (.receiving (.header a count by_) (openWindow 3 s.cfg.readTimeoutMs s)) :=
      ⟨⟨by simp, by simp⟩, rfl, rfl, hops⟩
    exact stateOk_of_afterCheck ht (checkOk_of_sent hs hopen (by cases by_ <;> exact hsession))
  | checks x w ha ht =>
    rw [ha] at hops hsession
    have hde : s.de = false := by simpa [ha, sendInProgress] using hhold.de_eq
    exact stateOk_of_afterCheck ht ⟨hbuf, hde, hops, hsession⟩
  | refuses ha hb =>
    have hde : s.de = false := by simpa [ha, sendInProgress] using hhold.de_eq
    rw [ha] at hsession
    exact stateOk_of_idle hbuf.of_same ha hb hde (hsession.of_sessionSame (by simp [SessionSame]))
  | runs i c rest ha hb hp hi ht =>
    have hde : s.de = false := by simpa [ha, sendInProgress] using hhold.de_eq
    have hnoFrame : ∀ f, encode i ≠ .outbound f := by
      obtain ⟨c', he, -⟩ := Encoding.encode_of_decodeCommand hi
      simp [he]
    rw [ha] at hsession
    have hpop : StateOk (popPort s) :=
      stateOk_of_idle hbuf.of_same ha hb hde (hsession.of_sessionSame (by simp [SessionSame]))
    exact stateOk_of_execOutcome hnoFrame hpop ha ht

/-! Every step. -/

/-- An agent's turn that touches neither the hold nor the session keeps a consistent state. -/
theorem StateOk.of_held {s t : State} (hs : StateOk s) (hb : BuffersOk t) (ha : t.activity = s.activity)
    (hbusy : t.busy = s.busy) (hde : t.de = s.de) (hcfg : t.cfg = s.cfg) (hst : SessionSame s t) : StateOk t := by
  obtain ⟨-, hhold, hsession⟩ := stateOk_iff.mp hs
  refine stateOk_iff.mpr ⟨hb, ⟨?_, ?_, ?_⟩, ?_⟩
  · rw [hbusy, ha]; exact hhold.busy_iff
  · rw [hde, ha]; exact hhold.de_eq
  · rw [hcfg, ha]; exact hhold.activity_ok
  · rw [ha]; exact hsession.of_sessionSame hst

theorem stateOk_takeTurn {s : State} (hs : StateOk s) : StateOk (takeTurn s) := by
  obtain ⟨hbuf, -, -⟩ := stateOk_iff.mp hs
  exact StateOk.of_held hs hbuf.of_same rfl rfl rfl rfl (by simp [SessionSame])

/-- Reset leaves nothing in progress and an empty record, and RXQ what it has room for (R116). -/
theorem stateOk_resetState (r : ResetInput) (s : State) : StateOk (resetState r s) := by
  refine stateOk_of_idle ⟨?_, ?_, ?_, ?_, ?_⟩ rfl rfl rfl ?_
  · exact fits_appendRx (queue := []) (fun n _ => Nat.zero_le n) r.rxq
  · simp [resetState]
  · simp [resetState]
  · simp [resetState]
  · simp [resetState]
  · constructor <;> simp [resetState, emptySession]

theorem stateOk_of_stepOutcome {s t : State} (hs : StateOk s) (h : StepOutcome s t) : StateOk t := by
  have hturn := stateOk_takeTurn hs
  obtain ⟨hbuf, -, -⟩ := stateOk_iff.mp hturn
  cases h with
  | overdue hn ho ht => exact stateOk_of_loopOutcome hs ht
  | loop hn ht => exact stateOk_of_loopOutcome hturn ht
  | clock => exact StateOk.of_held hturn hbuf.of_same rfl rfl rfl rfl (by simp [SessionSame])
  | drain n => exact StateOk.of_held hturn hbuf.of_same rfl rfl rfl rfl (by simp [SessionSame])
  | deliver b => exact StateOk.of_held hturn (hbuf.deliverBytes b) rfl rfl rfl rfl (by simp [SessionSame])
  | present c => exact StateOk.of_held hturn hbuf.of_same rfl rfl rfl rfl (by simp [SessionSame])
  | reset r => exact stateOk_resetState r _

/-- Settles O53. -/
theorem stepKeepsStateConsistent : Obligations.StepKeepsStateConsistent :=
  fun _ _ hs h => stateOk_of_stepOutcome hs (stepOutcome_of_step h)

end Sys2Proof.Proofs.Consistent
end

section
/-! SUPPORT. From a consistent state the machine never stops: the one fault needs a start write without a card in
PENDING (log 14). And the moves its session can make. -/

namespace Sys2Proof.Proofs.Consistent

open Sys2Proof Sys2Proof.Machine Sys2Proof.Safety Sys2Proof.Proofs.Exchange Sys2Proof.Proofs.Outcome
open Sys2Proof.Proofs.Frame

/-! No traps. -/

/-- Every instruction's meaning gives a next state; faults are the control loop's alone. -/
theorem exec_next (i : Instr) (s : State) : ∃ t, exec i s = .next t := by
  by_cases hr : RefusedByRule i s
  · obtain ⟨q, hq⟩ := exec_of_refusedByRule hr
    exact ⟨_, hq⟩
  cases i with
  | send => exact ⟨_, by rw [exec, execSend, if_pos (Bool.eq_true_of_not_eq_false hr)]⟩
  | receive n limit => 
    have hn : 1 ≤ n.toNat ∧ n.toNat ≤ 69 := by
      have : ¬(n.toNat = 0 ∨ 69 < n.toNat) := hr
      omega
    exact ⟨_, exec_receive hn limit s⟩
  | rhr a start count =>
    cases hc : countInRange count with
    | true => exact ⟨_, by rw [exec, execRhr, if_pos hc]⟩
    | false => exact ⟨_, RegisterClient.exec_rhr_of_not_countInRange a start s hc⟩
  | evCard id lookup =>
    by_cases hf : s.fsm = .idle
    · cases lookup with
      | none => exact ⟨_, by rw [exec, execEvCard, if_pos hf]⟩
      | some plate => exact ⟨_, by rw [exec, execEvCard, if_pos hf]⟩
    · exact ⟨_, SessionFsm.exec_evCard_of_not_idle id lookup hf⟩
  | evTick =>
    rw [exec, execEvTick]
    cases s.fsm with
    | idle | sessionStarting => exact ⟨_, rfl⟩
    | sessionActive | sessionClosing => dsimp only; split <;> exact ⟨_, rfl⟩
  | crcInit | crcByte | buildWrite | buildRead | wsr | wreq | wrsp | rreq | rrsp => exact ⟨_, rfl⟩

/-- A check of a receive gives a next state, where a start write has a card in PENDING (R94). -/
theorem receiveContinue_next {x : Receiver} {w : Window} {s : State}
    (h : startInProgress (.receiving x w) = true → s.pending.isSome = true) :
    ∃ t, receiveContinue x w s = .next t := by
  cases x with
  | wsr a r v by_ =>
    cases hc : checkWindow w s with
    | wait u => exact ⟨_, receiveContinue_of_wait hc⟩
    | timeout => exact ⟨_, receiveContinue_of_timeout hc⟩
    | bytes g =>
      cases hv : wsrVerdict a r v g with
      | error e => exact ⟨_, receiveContinue_wsr_of_error hc hv⟩
      | ok =>
        rw [receiveContinue_wsr_of_ok hc hv]
        exact endWsr_next by_ .ok _ (by rintro rfl; exact h rfl)
  | command | header | body => exact ⟨_, rfl⟩

theorem sendContinue_next {x : Sender} {s : State}
    (h : startInProgress (.sending x) = true → s.pending.isSome = true) : ∃ t, sendContinue x s = .next t := by
  cases x with
  | command => exact ⟨_, rfl⟩
  | wsr a r v by_ =>
    rw [sendContinue_wsr]
    exact receiveContinue_next (by cases by_ <;> exact h)
  | rhr a count by_ => exact ⟨_, rfl⟩

theorem mlbTurn_next {s : State} (h : startInProgress s.activity = true → s.pending.isSome = true) :
    ∃ t, mlbTurn s = .next t := by
  cases ha : s.activity with
  | sending x =>
    rw [mlbTurn_sending ha]
    split
    · exact sendContinue_next (by rw [← ha]; exact h)
    · exact ⟨_, rfl⟩
  | receiving x w =>
    rw [mlbTurn_receiving ha]
    exact receiveContinue_next (by rw [← ha]; exact h)
  | none =>
    cases hb : s.busy with
    | true => exact ⟨_, mlbTurn_busy ha hb⟩
    | false =>
      cases hp : s.port with
      | nil => exact ⟨_, mlbTurn_no_command ha hp⟩
      | cons c rest =>
        rw [mlbTurn_accept ha hb hp]
        cases hd : decodeCommand c with
        | error e => exact ⟨_, accept_of_error hd⟩
        | ok i => rw [accept_of_ok hd]; exact exec_next i _

/-- Settles O54. In SessionStarting PENDING holds a card, so that R94 finds it. -/
theorem consistentStateNeverStops : Obligations.ConsistentStateNeverStops := by
  intro s hs
  have hcard : startInProgress s.activity = true → s.pending.isSome = true :=
    fun h => hs.pending_iff.mpr (hs.starting_iff.mpr h)
  obtain ⟨-, -, he⟩ | ⟨-, he⟩ | ⟨-, -, he⟩ | ⟨n, -, he⟩ | ⟨b, -, he⟩ | ⟨c, -, he⟩ | ⟨r, -, he⟩ := step_cases s
  all_goals rw [he]
  · exact mlbTurn_next hcard
  · exact mlbTurn_next hcard
  · exact ⟨_, rfl⟩
  · exact ⟨_, rfl⟩
  · exact ⟨_, lineTurn_eq b _⟩
  · exact ⟨_, rfl⟩
  · exact ⟨_, rfl⟩

/-! The moves of the session (R92). -/

theorem tableMove_of_sessionSame {s t : State} (h : SessionSame s t) : TableMove s t := by
  obtain ⟨hfsm, -, -, -, -, -, -, -, hlog⟩ := h
  exact .stay hfsm hlog

theorem tableMove_after {s u t : State} (h : SessionSame s u) (k : TableMove u t) : TableMove s t := by
  obtain ⟨hfsm, hprev, -, -, -, -, -, -, hlog⟩ := h
  cases k with
  | stay hf hl => exact .stay (hf.trans hfsm) (hl.trans hlog)
  | reject id hs hf hl => exact .reject id (hfsm ▸ hs) hf (hlog ▸ hl)
  | start hs hf hl => exact .start (hfsm ▸ hs) hf (hl.trans hlog)
  | started plate hs hf hl => exact .started plate (hfsm ▸ hs) hf (hlog ▸ hl)
  | startFailed e hs hf hl => exact .startFailed e (hfsm ▸ hs) hf (hlog ▸ hl)
  | pollFailed e hs hf hl => exact .pollFailed e (hfsm ▸ hs) hf (hlog ▸ hl)
  | updated m hs hf he hl => exact .updated m (hfsm ▸ hs) hf (hprev ▸ he) (hlog ▸ hl)
  | closed m hs hf he hl => exact .closed m (hfsm ▸ hs) hf (hprev ▸ he) (hlog ▸ hl)
  | returned hs hf hl => exact .returned (hfsm ▸ hs) hf (hlog ▸ hl)

/-- An error end makes the move of its role's row (R95, R97). -/
theorem tableMove_errorEnd {x : Receiver} {w : Window} {u : State} (h : SessionOf (.receiving x w) u)
    (e : ProtocolError) : TableMove u (errorEnd (roleOf x) e u) := by
  have hstart : startInProgress (.receiving x w) = true → u.fsm = .sessionStarting := h.starting_iff.mpr
  have hpoll : pollInProgress (.receiving x w) = true → u.fsm = .sessionActive := fun hp => (h.poll_active hp).1
  cases x with
  | command => exact .stay rfl rfl
  | wsr a r v by_ =>
    cases by_ with
    | host => exact .stay rfl rfl
    | fsm => exact .startFailed e (hstart rfl) rfl rfl
  | header a count by_ =>
    cases by_ with
    | host => exact .stay rfl rfl
    | fsm => exact .pollFailed e (hpoll rfl) (hpoll rfl) rfl
  | body count header by_ =>
    cases by_ with
    | host => exact .stay rfl rfl
    | fsm => exact .pollFailed e (hpoll rfl) (hpoll rfl) rfl

/-- A successful poll updates the reading, and on the falling edge closes the session (R97, R98). -/
theorem tableMove_pollOkWith {u : State} (hf : u.fsm = .sessionActive) (m : MeterReading) :
    TableMove u (endCommand (pollOkWith m u)) := by
  have hedge : fallingEdge u.prevActive (sessionActiveBit m.status) = true ↔
      u.prevActive = true ∧ m.status.getLsbD 1 = false := by simp [fallingEdge, sessionActiveBit]
  rw [pollOkWith]
  split
  case isTrue hfall => exact .closed m hf (by simp) (hedge.mp hfall) (by simp)
  case isFalse hstay => exact .updated m hf (by simp [hf]) (fun he => hstay (hedge.mpr he)) (by simp)

theorem tableMove_of_afterCheck {x : Receiver} {w : Window} {s t : State} (h : AfterCheck x w s t)
    (hs : SessionOf (.receiving x w) s) : TableMove s t := by
  induction h with
  | waits => exact .stay rfl rfl
  | @timesOut x w s hc =>
    have hu := untouched_takeRx w s
    exact tableMove_after hu.sessionSame (tableMove_errorEnd (hs.of_untouched hu) .timeout)
  | fails e hc hu =>
    have hu := untouched_of_taken hu
    exact tableMove_after hu.sessionSame (tableMove_errorEnd (hs.of_untouched hu) e)
  | received => exact .stay rfl rfl
  | @echoed w s t g a r v by_ hc ht =>
    have hu := untouched_stored g w s
    obtain ⟨rfl, rfl⟩ | ⟨-, e, he, -⟩ | ⟨rfl, -, id, plate, -, rfl⟩ := endWsr_cases ht
    · exact .stay rfl rfl
    · cases he
    · exact .started plate (hs.starting_iff.mpr rfl) rfl rfl
  | @opensBody w s t g a count by_ hc hv ht ih =>
    have hbody := hs.of_untouched (untouched_takeRx w s)
    exact tableMove_after (untouched_takeRx w s).sessionSame (ih (by cases by_ <;> exact hbody))
  | @read w s g header count by_ hc =>
    have hsame : SessionSame s (storeRead (header ++ g) (takeRx w s)) :=
      SessionSame.trans (untouched_takeRx w s).sessionSame (sessionSame_storeRead (header ++ g) (takeRx w s))
    refine tableMove_after hsame ?_
    cases by_ with
    | host => exact .stay (endCommand_fsm _) (endCommand_evLog _)
    | fsm =>
      obtain ⟨hf, -⟩ := (hs.of_sessionSame hsame).poll_active rfl
      exact tableMove_pollOkWith hf _

theorem tableMove_of_execOutcome {i : Instr} {s t : State} (hs : SessionOk false false s) (h : ExecOutcome i s t) :
    TableMove s t := by
  cases h with
  | receives n limit hn ht => exact tableMove_of_afterCheck ht hs
  | rejects id hf => exact .reject id hf hf rfl
  | starts id plate f hf => exact .start hf (by simp) (by simp)
  | returns hf => exact .returned hf rfl rfl
  | ignored | refused | crc | built | sends | sendsFrame | writes | reads | polls | arrives =>
    exact .stay (by simp) (by simp)

theorem tableMove_of_loopOutcome {s t : State} (hs : StateOk s) (h : LoopOutcome s t) : TableMove s t := by
  obtain ⟨-, -, hsession⟩ := stateOk_iff.mp hs
  cases h with
  | idles | sent | refuses => exact .stay rfl rfl
  | sentWsr a r v by_ ha ht =>
    rw [ha] at hsession
    have hde := hsession.of_untouched (untouched_setDe false s)
    exact tableMove_after (untouched_setDe false s).sessionSame
      (tableMove_of_afterCheck ht (by cases by_ <;> exact hde))
  | sentRhr a count by_ ha ht =>
    rw [ha] at hsession
    have hde := hsession.of_untouched (untouched_setDe false s)
    exact tableMove_after (untouched_setDe false s).sessionSame
      (tableMove_of_afterCheck ht (by cases by_ <;> exact hde))
  | checks x w ha ht =>
    rw [ha] at hsession
    exact tableMove_of_afterCheck ht hsession
  | runs i c rest ha hb hp hi ht =>
    rw [ha] at hsession
    have hpop : SessionSame s (popPort s) := by simp [SessionSame]
    exact tableMove_after hpop (tableMove_of_execOutcome (hsession.of_sessionSame hpop) ht)

/-- Settles O45. Only the control loop moves the session, and each of its outcomes is a row of the table. -/
theorem sessionMovesAreTheTables : Obligations.SessionMovesAreTheTables := by
  intro s t hs hr h
  cases stepOutcome_of_step h with
  | overdue hn ho ht => exact tableMove_of_loopOutcome hs ht
  | loop hn ht =>
    exact tableMove_after (untouched_takeTurn s).sessionSame (tableMove_of_loopOutcome (stateOk_takeTurn hs) ht)
  | clock | drain | deliver | present => exact .stay rfl rfl
  | reset r hn => exact absurd ⟨r, hn⟩ hr

/-- Settles O52. At reset nothing is in progress, and RX_POLL_MAX_MS is chosen within R4's bound. -/
theorem resetStateIsConsistent : Obligations.ResetStateIsConsistent := by
  refine ⟨?_, ?_, ?_⟩
  · refine stateOk_of_idle ⟨fun n _ => Nat.zero_le n, ?_, ?_, ?_, ?_⟩ rfl rfl rfl ?_
    · simp [State.reset]
    · simp [State.reset]
    · simp [State.reset]
    · simp [State.reset]
    · constructor <;> simp [State.reset, emptySession]
  · exact Timing.timingOk_of_justChecked (Timing.justChecked_of_ended rfl)
  · have hbound : Config.rxPollMaxMs < 2 ^ 32 - 100 := by
      have := Nat.mod_lt Config.rxPollChoice (show 2 ^ 32 - 101 > 0 by decide)
      rw [Config.rxPollMaxMs]
      omega
    have hread : State.reset.cfg.readTimeoutMs.toNat = 100 := rfl
    have hwrite : State.reset.cfg.writeTimeoutMs.toNat = 100 := rfl
    have hpoll : State.reset.params.rxPollMaxMs = Config.rxPollMaxMs := rfl
    refine ⟨fun c hc => ?_, Nat.le_add_left 1 _, by omega, by omega⟩
    obtain ⟨n, -, rfl⟩ := Option.map_eq_some_iff.mp hc
    exact Nat.le_add_left 1 n

end Sys2Proof.Proofs.Consistent
end

section
/-! SUPPORT. Transport (42_transport.md): the whole effect of SEND and RECEIVE, and what the line delivers. -/

namespace Sys2Proof.Proofs.Transport

open Sys2Proof Sys2Proof.Machine Sys2Proof.Safety Sys2Proof.Proofs.Exchange Sys2Proof.Proofs.Outcome

/-! Sending. -/

/-- Steps 1 to 3 of a send, field by field (R77). -/
theorem startSend_eq (x : Sender) (f : List Byte) (s : State) :
    startSend x f s =
      { s with
        rxq := []
        de := true
        txTrace := s.txTrace ++ f.map (fun b => (b, true))
        uart := s.uart ++ f
        busy := true
        activity := .sending x } := rfl

/-- A send that no receive follows ends once the UART has drained (R77, R84). -/
theorem steps_drained_command {f : List Byte} (hf : f.length = 8) (s : State) :
    steps 2 (withAgenda [.drain (s.uart.length + 8), .mlb] (startSend .command f s)) =
      .next { startSend .command f s with
              de := false
              busy := false
              activity := .none
              uart := []
              agenda := []
              turnCount := s.turnCount + 2 } := by
  have hdrained : (s.uart ++ f).drop (s.uart.length + 8) = [] := List.drop_of_length_le (by simp [hf])
  rw [steps_drain_mlb (x := .command) rfl (by simp [hf])]
  simp only [startSend_eq, sendContinue, endCommand, setDe, takeTurn, drainUart, withAgenda, hdrained,
    List.tail_cons, Nat.add_assoc]

theorem exec_send {s : State} (hv : s.txValid = true) :
    exec .send s = .next (startSend .command s.txBuf.toList s) := by
  rw [exec, execSend, if_pos hv]

/-- Settles O21. -/
theorem sendTransmitsFrameAndCompletes : Obligations.SendTransmitsFrameAndCompletes := fun s hv =>
  ⟨_, exec_send hv, startSend_eq _ _ s, steps_drained_command (by simp) s⟩

/-- Settles O47. A request frame's bytes are sent as SEND sends those of TXBUF. -/
theorem requestFramesAreSent : Obligations.RequestFramesAreSent := by
  intro a x y crc i s hi f hf
  have hexec : exec i s = .next (startSend .command f s) ∧ f.length = 8 := by
    obtain rfl | rfl := hi <;> obtain rfl := Encoded.outbound.inj hf <;> exact ⟨rfl, rfl⟩
  obtain ⟨hexec, hlen⟩ := hexec
  refine ⟨_, hexec, startSend_eq _ _ s, steps_drained_command hlen s, fun hv hbuf => ?_⟩
  rw [exec_send hv, hexec, hbuf]

/-! Receiving. -/

/-- A check with too few bytes there takes all of them (R80). -/
theorem takeRx_of_short {w : Window} {s : State} (h : w.got.length + s.rxq.length < w.need) :
    takeRx w s = { s with rxq := [] } := by
  rw [takeRx, List.drop_of_length_le (by omega)]

theorem elapsed_lt_iff {now t0 limit : Ms} : elapsed now t0 < limit ↔ (now - t0).toNat < limit.toNat := Iff.rfl

theorem le_elapsed_iff {now t0 limit : Ms} : limit ≤ elapsed now t0 ↔ limit.toNat ≤ (now - t0).toNat := Iff.rfl

/-- Too few bytes there, in time: the receive waits on, with the bytes taken (R80, R81). -/
theorem receiveContinue_of_early {x : Receiver} {w : Window} {s : State}
    (h : w.got.length + s.rxq.length < w.need) (ht : elapsed s.now w.t0 < w.limit) :
    receiveContinue x w s =
      .next { s with
              rxq := []
              busy := true
              activity := .receiving x { w with got := w.got ++ s.rxq, checkedAt := s.now } } := by
  obtain ⟨hc, hq⟩ := checkWindow_of_yield h ht
  rw [receiveContinue_of_wait hc, hq]
  rfl

/-- Too few bytes there, and the time over: the receive ends in Timeout, with the bytes taken discarded (R80). -/
theorem receiveContinue_of_late {x : Receiver} {w : Window} {s : State}
    (h : w.got.length + s.rxq.length < w.need) (ht : w.limit ≤ elapsed s.now w.t0) :
    receiveContinue x w s = .next (errorEnd (roleOf x) .timeout { s with rxq := [] }) := by
  rw [receiveContinue_of_timeout (checkWindow_of_late h ht), takeRx_of_short h]

/-- RECEIVE's bytes are there, and what follows them stays in RXQ (R85). -/
theorem receiveContinue_command_of_arrived {w : Window} {x rest : List Byte} {s : State}
    (h : Arrived x.length (x ++ rest) w s) :
    receiveContinue .command w s =
      .next { s with
              rxq := rest
              rxBuf := rxBufOf x s.freeCount
              rxLen := BitVec.ofNat 7 x.length
              res := .ok
              busy := false
              activity := .none
              freeCount := s.freeCount + 1 } := by
  obtain ⟨hc, hq⟩ := checkWindow_of_arrived rfl h
  rw [receiveContinue_command_of_bytes hc, hq]
  rfl

/-- Settles O23. A RECEIVE's first check finds its bytes in RXQ as a later one does. -/
theorem receiveCompletesWithWaitingBytes : Obligations.ReceiveCompletesWithWaitingBytes := by
  refine ⟨fun n t s hn1 hn69 hq => ?_, fun w x rest s h _ => ?_⟩
  · have hlen : (s.rxq.take n.toNat).length = n.toNat := List.length_take_of_le hq
    have harrived : Arrived (s.rxq.take n.toNat).length (s.rxq.take n.toNat ++ s.rxq.drop n.toNat)
        (openWindow n.toNat t s) s := by
      rw [hlen, List.take_append_drop]
      exact arrived_openWindow rfl
    refine ⟨rxBufOf (s.rxq.take n.toNat) s.freeCount, fun k h hk => ?_, ?_⟩
    · rw [rxBufOf_getElem_lt _ _ _ h (by omega)]
      simp [hk]
    · rw [exec_receive ⟨hn1, hn69⟩, receiveContinue_command_of_arrived harrived, hlen]
  · exact ⟨rxBufOf x s.freeCount, fun k hk hlt => rxBufOf_getElem_lt x _ k hk hlt,
      receiveContinue_command_of_arrived h⟩

/-- A window that has just opened on too few bytes stays open, if it has any time (R80). -/
theorem receiveContinue_opens {x : Receiver} {need : Nat} {limit : Ms} {s : State} (hq : s.rxq.length < need)
    (hl : limit ≠ 0#32) :
    receiveContinue x (openWindow need limit s) s =
      .next { s with
              rxq := []
              busy := true
              activity := .receiving x
                { need := need, limit := limit, t0 := s.now, got := s.rxq, checkedAt := s.now } } := by
  have hearly : elapsed s.now (openWindow need limit s).t0 < (openWindow need limit s).limit := by
    simp only [openWindow_t0, openWindow_limit, elapsed, BitVec.sub_self]
    bv_omega
  rw [receiveContinue_of_early (by simpa using hq) hearly]
  rfl

/-- With no time at all it is over at once (R80). -/
theorem receiveContinue_zero_limit {x : Receiver} {need : Nat} {s : State} (hq : s.rxq.length < need) :
    receiveContinue x (openWindow need 0#32 s) s =
      .next (errorEnd (roleOf x) .timeout { s with rxq := [] }) :=
  receiveContinue_of_late (by simpa using hq) (by simp [elapsed])

/-- Settles O24. -/
theorem receiveWithTooFewBytes : Obligations.ReceiveWithTooFewBytes := by
  intro n t s hn69 hq
  rw [exec_receive (n := n) ⟨by omega, hn69⟩]
  refine ⟨?_, receiveContinue_opens hq⟩
  rintro rfl
  exact ⟨rxBufOf [] s.freeCount, receiveContinue_zero_limit hq⟩

/-- Settles O25. -/
theorem receiveCheckOrder : Obligations.ReceiveCheckOrder := by
  intro w s hlt
  refine ⟨fun hq => ⟨checkWindow_of_enough (Nat.le_of_lt hlt) hq, ?_⟩, checkWindow_of_late, checkWindow_of_early, rfl⟩
  simp only [List.length_append, List.length_take]
  omega

/-- Settles O26. -/
theorem overdueCheckComesBeforeClock : Obligations.OverdueCheckComesBeforeClock := by
  refine ⟨fun s x w ha hn => ?_, fun s x w => receiveContinue_of_early, fun s x w ha hover hn => ?_⟩
  · rw [step_mlb hn, mlbTurn_receiving (s := takeTurn s) ha]
  · have ho : checkOverdue s = true := by
      simp only [checkOverdue, ha]
      exact decide_eq_true hover
    rw [step_overdue hn ho, mlbTurn_receiving ha]

/-! The line. -/

/-- Settles O48. -/
theorem lineDeliversAnyBytes : Obligations.LineDeliversAnyBytes := by
  intro bytes s hn
  rw [step_deliver hn, lineTurn_eq]
  rfl

theorem appendRx_some_of_full {n : Nat} {queue : List Byte} (h : queue.length = n) (bytes : List Byte) :
    appendRx (some n) queue bytes = queue := by
  simp [appendRx, h]

/-- A burst arrives as its bytes one after another (R20, log 20). -/
theorem appendRx_cons {capacity : Option Nat} {queue : List Byte} (h : fits capacity queue.length) (b : Byte)
    (rest : List Byte) : appendRx capacity queue (b :: rest) = appendRx capacity (appendRx capacity queue [b]) rest := by
  cases capacity with
  | none => simp [appendRx]
  | some n =>
    obtain heq | hlt : queue.length = n ∨ queue.length < n := by have := h n rfl; omega
    · simp only [appendRx_some_of_full heq]
    · obtain ⟨k, hk⟩ : ∃ k, n - queue.length = k + 1 := ⟨n - queue.length - 1, by omega⟩
      have hrest : n - (queue.length + 1) = k := by omega
      simp [appendRx, hk, hrest]

/-- Settles O49. -/
theorem fullReceiveBufferLosesBytes : Obligations.FullReceiveBufferLosesBytes := by
  intro capacity queue bytes h
  refine ⟨Consistent.fits_appendRx h bytes, appendRx_of_fits, ?_, ?_⟩
  · rintro n rfl hfull
    exact appendRx_some_of_full hfull bytes
  · rintro b rest rfl
    exact appendRx_cons h b rest

/-- Settles O46. -/
theorem responseFramesArrive : Obligations.ResponseFramesArrive :=
  fun _ _ _ _ _ _ => ⟨rfl, rfl⟩

end Sys2Proof.Proofs.Transport
end

section
/-! SUPPORT. How an exchange goes on where its bytes are there, whoever started it: at the end of its send, or at a check
after a yield. -/

namespace Sys2Proof.Proofs.Exchange

open Sys2Proof Sys2Proof.Machine Sys2Proof.Safety Sys2Proof.Proofs.Transport

/-! The end of a send. -/

/-- The control loop has lowered DE at the end of a send, and nothing else has changed but the turn (R77 step 5). -/
def sendEnded (s : State) : State := setDe false (takeTurn s)

theorem untouched_sendEnded (s : State) : Untouched s (sendEnded s) :=
  (untouched_takeTurn s).trans (untouched_setDe false _)

@[simp] theorem sendEnded_rxq (s : State) : (sendEnded s).rxq = s.rxq := rfl
@[simp] theorem sendEnded_de (s : State) : (sendEnded s).de = false := rfl
@[simp] theorem sendEnded_cfg (s : State) : (sendEnded s).cfg = s.cfg := rfl
@[simp] theorem sendEnded_now (s : State) : (sendEnded s).now = s.now := rfl
@[simp] theorem sendEnded_uart (s : State) : (sendEnded s).uart = s.uart := rfl
@[simp] theorem sendEnded_pending (s : State) : (sendEnded s).pending = s.pending := rfl

theorem step_of_sendOver_wsr {a : Byte} {r v : Word} {by_ : Caller} {s : State}
    (h : SendOver (.wsr a r v by_) s) :
    step s = receiveContinue (.wsr a r v by_) (openWindow 8 s.cfg.writeTimeoutMs (sendEnded s)) (sendEnded s) :=
  step_of_sendOver h

theorem step_of_sendOver_rhr {a : Byte} {count : Word} {by_ : Caller} {s : State}
    (h : SendOver (.rhr a count by_) s) :
    step s = receiveContinue (.header a count by_) (openWindow 3 s.cfg.readTimeoutMs (sendEnded s)) (sendEnded s) :=
  step_of_sendOver h

/-- The bytes that wait at the end of a send are there for its first check. -/
theorem arrived_of_sendOverWith {x : Sender} {bytes : List Byte} {s : State} (h : SendOverWith x bytes s)
    (need : Nat) (limit : Ms) : Arrived need bytes (openWindow need limit (sendEnded s)) (sendEnded s) :=
  arrived_openWindow h.2

/-- The UART drains, the line answers, and the control loop has its turn: the send is over, with the answer there. -/
theorem steps_exchange {x : Sender} {bytes : List Byte} {n : Nat} {t : State} (ha : t.activity = .sending x)
    (hu : t.uart.length ≤ n) (hq : t.rxq = []) (hroom : roomFor bytes.length t) :
    ∃ s, steps 3 (withAgenda [.drain n, .deliver bytes, .mlb] t) = step s ∧ SendOverWith x bytes s ∧
      Untouched t s := by
  let t₁ := drainUart n (takeTurn (withAgenda [.drain n, .deliver bytes, .mlb] t))
  let t₂ := deliverBytes bytes (takeTurn t₁)
  have h₁ : step (withAgenda [.drain n, .deliver bytes, .mlb] t) = .next t₁ := step_drain rfl
  have h₂ : step t₁ = .next t₂ := by rw [step_deliver rfl, Outcome.lineTurn_eq]
  have hrxq : t₂.rxq = bytes := by simp [t₂, t₁, hq, appendRx_nil_of_roomFor hroom bytes]
  have hover : SendOver x t₂ := ⟨by simpa [t₂, t₁] using ha, by simpa [t₂, t₁] using hu, rfl⟩
  have hsame₁ : Untouched t t₁ :=
    ((untouched_withAgenda _ t).trans (untouched_takeTurn _)).trans (untouched_drainUart n _)
  have hsame₂ : Untouched t₁ t₂ := (untouched_takeTurn t₁).trans (untouched_deliverBytes bytes _)
  refine ⟨t₂, ?_, ⟨hover, hrxq⟩, hsame₁.trans hsame₂⟩
  rw [steps_succ_of_next h₁, steps_succ_of_next h₂, steps_one]

/-! Errors. -/

/-- The outcome `o` is the error end of role `q` from `s`, with `rest` in RXQ and DE at `d`. -/
def FailsWith (q : Role) (e : ProtocolError) (rest : List Byte) (d : Bool) (s : State)
    (o : Host.Outcome State Fault Refusal) : Prop :=
  ∃ u, o = .next (errorEnd q e u) ∧ Untouched s u ∧ u.rxq = rest ∧ u.de = d

section
variable {q : Role} {e : ProtocolError} {rest : List Byte} {d : Bool} {s t : State}
  {o : Host.Outcome State Fault Refusal}

theorem FailsWith.of_untouched (hst : Untouched s t) (h : FailsWith q e rest d t o) : FailsWith q e rest d s o := by
  obtain ⟨u, ho, hu, hq, hd⟩ := h
  exact ⟨u, ho, hst.trans hu, hq, hd⟩

theorem FailsWith.host (h : FailsWith .host e rest d s o) :
    ∃ u, o = .next u ∧ HostFails e s u ∧ u.de = d ∧ u.rxq = rest := by
  obtain ⟨u, ho, hu, hq, hd⟩ := h
  exact ⟨_, ho, errorEnd_host hu e, (errorEnd_de _ _ _).trans hd, (errorEnd_rxq _ _ _).trans hq⟩

theorem FailsWith.start (h : FailsWith .start e rest d s o) :
    ∃ u, o = .next u ∧ StartFails e s u ∧ u.de = d ∧ u.rxq = rest := by
  obtain ⟨u, ho, hu, hq, hd⟩ := h
  exact ⟨_, ho, errorEnd_start hu e, (errorEnd_de _ _ _).trans hd, (errorEnd_rxq _ _ _).trans hq⟩

theorem FailsWith.poll (h : FailsWith .poll e rest d s o) :
    ∃ u, o = .next u ∧ PollFails e s u ∧ u.de = d ∧ u.rxq = rest := by
  obtain ⟨u, ho, hu, hq, hd⟩ := h
  exact ⟨_, ho, errorEnd_poll hu e, (errorEnd_de _ _ _).trans hd, (errorEnd_rxq _ _ _).trans hq⟩

end

section
variable {a h0 h1 h2 : Byte} {r v count : Word} {by_ : Caller} {x b rest header : List Byte} {w : Window}
  {s : State} {e : ProtocolError}

/-- At the control loop's turn an open receive whose window is over ends in Timeout (R80). -/
theorem step_fails_of_windowOver {y : Receiver} (ha : s.activity = .receiving y w) (hn : nextTurn s = .mlb)
    (h : WindowOver w s) : FailsWith (roleOf y) .timeout [] s.de s (step s) := by
  obtain ⟨hshort, hlate⟩ := h
  refine ⟨{ takeTurn s with rxq := [] }, ?_, Untouched.refl s, rfl, rfl⟩
  rw [step_mlb hn, mlbTurn_receiving (s := takeTurn s) ha]
  exact receiveContinue_of_late hshort hlate

/-- A window that has just opened with no time on too few bytes ends in Timeout (R80). -/
theorem fails_of_zero_limit {y : Receiver} {need : Nat} (hq : s.rxq.length < need) {limit : Ms}
    (hl : limit = 0#32) : FailsWith (roleOf y) .timeout [] s.de s (receiveContinue y (openWindow need limit s) s) :=
  ⟨{ s with rxq := [] }, hl ▸ receiveContinue_zero_limit hq, untouched_setRxq [] s, rfl, rfl⟩

theorem untouched_taken (x rest : List Byte) (s : State) : Untouched s (storeResponse x { s with rxq := rest }) :=
  (untouched_setRxq rest s).trans (untouched_storeResponse x _)

/-- Eight bytes that WSR's checks refuse (R87). -/
theorem wsr_fails (hx : x.length = 8) (h : Arrived 8 (x ++ rest) w s) (hv : wsrVerdict a r v x = .error e) :
    FailsWith (roleOf (.wsr a r v by_)) e rest s.de s (receiveContinue (.wsr a r v by_) w s) := by
  obtain ⟨hc, hq⟩ := checkWindow_of_arrived hx h
  exact ⟨_, hq ▸ receiveContinue_wsr_of_error hc hv, untouched_taken x rest s, rfl, rfl⟩

/-- Eight bytes that WSR's checks accept (R87). -/
theorem receiveContinue_wsr_of_arrived (hx : x.length = 8) (h : Arrived 8 (x ++ rest) w s)
    (hv : wsrVerdict a r v x = .ok) :
    receiveContinue (.wsr a r v by_) w s =
      endWsr by_ .ok (setRes .ok (storeResponse x { s with rxq := rest })) := by
  obtain ⟨hc, hq⟩ := checkWindow_of_arrived hx h
  rw [receiveContinue_wsr_of_ok hc hv, hq]

theorem headerVerdict_of_bad (h : BadHeader a count h0 h1 h2) :
    headerVerdict a count [h0, h1, h2] = .error (headerError a h0 h1) := by
  by_cases haf : h0 ≠ a ∨ h1 ≠ 0x03#8
  · simp [headerVerdict, headerError, haf]
  · have hcount : h2.toNat ≠ 2 * count.toNat := by
      obtain h | h | h := h
      · exact absurd (.inl h) haf
      · exact absurd (.inr h) haf
      · exact h
    simp [headerVerdict, headerError, haf, hcount]

/-- A header that RHR's checks refuse (R89). -/
theorem header_fails (h : Arrived 3 (h0 :: h1 :: h2 :: rest) w s) (hbad : BadHeader a count h0 h1 h2) :
    FailsWith (roleOf (.header a count by_)) (headerError a h0 h1) rest s.de s
      (receiveContinue (.header a count by_) w s) := by
  obtain ⟨hc, hq⟩ := checkWindow_of_arrived (x := [h0, h1, h2]) rfl h
  exact ⟨_, hq ▸ receiveContinue_header_of_error hc (headerVerdict_of_bad hbad), untouched_setRxq rest s, rfl, rfl⟩

/-- A body whose CRC is wrong (R89). -/
theorem body_fails (h : Arrived b.length (b ++ rest) w s) (hcrc : crcOk (header ++ b) = false) :
    FailsWith (roleOf (.body count header by_)) .crcMismatch rest s.de s
      (receiveContinue (.body count header by_) w s) := by
  obtain ⟨hc, hq⟩ := checkWindow_of_arrived rfl h
  exact ⟨_, hq ▸ receiveContinue_body_of_error hc hcrc, untouched_taken (header ++ b) rest s, rfl, rfl⟩

/-- A correct header is followed at once by the first check of the body receive, on what waits after it (R89). -/
theorem receiveContinue_header_of_arrived (h : Arrived 3 (a :: 0x03#8 :: h2 :: rest) w s)
    (hh : h2.toNat = 2 * count.toNat) :
    receiveContinue (.header a count by_) w s =
      receiveContinue (.body count [a, 0x03#8, h2] by_)
        (openWindow (2 * count.toNat + 2) s.cfg.readTimeoutMs { s with rxq := rest }) { s with rxq := rest } := by
  obtain ⟨hc, hq⟩ := checkWindow_of_arrived (x := [a, 0x03#8, h2]) rfl h
  have hv : headerVerdict a count [a, 0x03#8, h2] = .ok := by simp [headerVerdict, hh]
  rw [receiveContinue_header_of_ok hc hv, hq, ← hh]
  rfl

theorem roleOf_body (a : Byte) (count : Word) (header : List Byte) (by_ : Caller) :
    roleOf (.body count header by_) = roleOf (.header a count by_) := by
  cases by_ <;> rfl

/-- A whole response whose CRC is wrong, found by its header receive (R89). -/
theorem response_fails (h : Arrived 3 (a :: 0x03#8 :: h2 :: (b ++ rest)) w s) (hh : h2.toNat = 2 * count.toNat)
    (hb : b.length = 2 * count.toNat + 2) (hcrc : crcOk (a :: 0x03#8 :: h2 :: b) = false) :
    FailsWith (roleOf (.header a count by_)) .crcMismatch rest s.de s
      (receiveContinue (.header a count by_) w s) := by
  rw [receiveContinue_header_of_arrived h hh, ← roleOf_body a count [a, 0x03#8, h2] by_, ← hb]
  exact (body_fails (arrived_openWindow rfl) hcrc).of_untouched (untouched_setRxq (b ++ rest) s)

/-- A correct header with too few bytes after it and no time for them (R89). -/
theorem response_times_out (h : Arrived 3 (a :: 0x03#8 :: h2 :: rest) w s) (hh : h2.toNat = 2 * count.toNat)
    (hq : rest.length < 2 * count.toNat + 2) (hl : s.cfg.readTimeoutMs = 0#32) :
    FailsWith (roleOf (.header a count by_)) .timeout [] s.de s (receiveContinue (.header a count by_) w s) := by
  rw [receiveContinue_header_of_arrived h hh, ← roleOf_body a count [a, 0x03#8, h2] by_]
  have hfails := fails_of_zero_limit (y := .body count [a, 0x03#8, h2] by_) (s := { s with rxq := rest }) hq hl
  exact hfails.of_untouched (untouched_setRxq rest s)

/-! Correct read responses. -/

theorem responseFrame_eq (a : Byte) (data : List Byte) :
    responseFrame a data =
      a :: 0x03#8 :: BitVec.ofNat 8 data.length :: (data ++ crcField (crc16 (responseBody a data))) := rfl

theorem responseFrame_length (a : Byte) (data : List Byte) : (responseFrame a data).length = data.length + 5 := by
  simp [responseFrame_eq, crcField]

theorem responseData_responseFrame (a : Byte) (data : List Byte) : responseData (responseFrame a data) = data := by
  simp [responseData, responseFrame_eq, crcField]

theorem byteCount_toNat {n : Nat} (h : count.toNat ≤ 32) (hn : n = 2 * count.toNat) :
    (BitVec.ofNat 8 n).toNat = 2 * count.toNat := by
  rw [BitVec.toNat_ofNat, hn]
  exact Nat.mod_eq_of_lt (by omega)

variable {data : List Byte}

/-- The rest of a response, found by its body receive (R89). -/
theorem receiveContinue_body_of_response (hd : data.length = 2 * count.toNat)
    (h : Arrived (2 * count.toNat + 2) ((responseFrame a data).drop 3 ++ rest) w s) :
    receiveContinue (.body count ((responseFrame a data).take 3) by_) w s =
      .next (endRhr by_ .ok (storeRead (responseFrame a data) { s with rxq := rest })) := by
  have hlen : ((responseFrame a data).drop 3).length = 2 * count.toNat + 2 := by
    rw [List.length_drop, responseFrame_length, hd]
    omega
  obtain ⟨hc, hq⟩ := checkWindow_of_arrived hlen h
  have hcrc : crcOk ((responseFrame a data).take 3 ++ (responseFrame a data).drop 3) = true := by
    rw [List.take_append_drop]
    exact crcOk_own _
  rw [receiveContinue_body_of_ok hc hcrc, hq, List.take_append_drop]

/-- A whole response, found by its header receive (R89). -/
theorem receiveContinue_header_of_response (hle : count.toNat ≤ 32) (hd : data.length = 2 * count.toNat)
    (h : Arrived 3 (responseFrame a data ++ rest) w s) :
    receiveContinue (.header a count by_) w s =
      .next (endRhr by_ .ok (storeRead (responseFrame a data) { s with rxq := rest })) := by
  rw [receiveContinue_header_of_arrived h (byteCount_toNat hle hd)]
  exact receiveContinue_body_of_response hd (arrived_openWindow rfl)

/-- A response is in RXBUF once stored (R17). -/
theorem holdsResponse_storeResponse (x : List Byte) (s : State) : HoldsResponse x (storeResponse x s) :=
  ⟨rfl, fun k hk hlt => rxBufOf_getElem_lt x s.freeCount k hk hlt⟩

theorem holdsResponse_of_same {t u : State} (h : HoldsResponse x t) (hl : u.rxLen = t.rxLen)
    (hb : u.rxBuf = t.rxBuf) : HoldsResponse x u := by
  obtain ⟨hlen, hbytes⟩ := h
  exact ⟨hl.trans hlen, hb ▸ hbytes⟩

/-- A read's registers are in REGS (R18, R89). -/
theorem holdsRegisters_storeRead {n : Nat} (hd : data.length = 2 * n) (a : Byte) (s : State) :
    HoldsRegisters n data (storeRead (responseFrame a data) s) := by
  have hlen := decodeRegs_length n data hd
  refine ⟨?_, fun k hk hlt => ?_⟩
  · simp [storeRead, responseData_responseFrame, hlen]
  · simp only [storeRead, setRes_regs, storeRegs_regs, responseData_responseFrame]
    rw [regsOf_getElem_lt _ _ _ hk (by omega), List.getD_eq_getElem?_getD, FrameCodec.decodeRegs_getElem? hd hlt]
    rfl

theorem holdsRegisters_of_same {n : Nat} {t u : State} (h : HoldsRegisters n data t) (hc : u.regCount = t.regCount)
    (hr : u.regs = t.regs) : HoldsRegisters n data u := by
  obtain ⟨hcount, hregs⟩ := h
  exact ⟨hc.trans hcount, hr ▸ hregs⟩

theorem holdsResponse_storeRead (x : List Byte) (s : State) : HoldsResponse x (storeRead x s) :=
  holdsResponse_of_same (holdsResponse_storeResponse x s) rfl rfl

end

end Sys2Proof.Proofs.Exchange
end

section
/-! SUPPORT. The register client (43_register_client.md): what WSR and RHR answer to the bytes they receive. -/

namespace Sys2Proof.Proofs.RegisterClient

open Sys2Proof Sys2Proof.Machine Sys2Proof.Safety Sys2Proof.Proofs.Exchange Sys2Proof.Proofs.Transport

/-! WSR's checks (R87). -/

theorem wsrAnswer_eq (a : Byte) (r v : Word) (x : List Byte) : wsrAnswer a r v x = wsrVerdict a r v x := by
  cases hc : crcOk x <;> simp [wsrAnswer, wsrVerdict, hc]

theorem wsrVerdict_ok_iff {a : Byte} {r v : Word} {x : List Byte} :
    wsrVerdict a r v x = .ok ↔
      crcOk x = true ∧ x.getD 0 0 = a ∧ x.getD 1 0 = 0x06#8 ∧
        (x.drop 2).take 4 = [hiByte r, loByte r, hiByte v, loByte v] := by
  have hfields : ((buildWriteFrame a r v).toList.drop 2).take 4 = [hiByte r, loByte r, hiByte v, loByte v] := rfl
  simp only [wsrVerdict, hfields]
  split_ifs with hcrc haf hecho
  · simp [show crcOk x = false by simpa using hcrc]
  · simp only [false_iff, not_and]
    intro _ ha hf
    exact absurd hf (haf.resolve_left (not_not_intro ha))
  · simp [hecho]
  · simp_all

/-- Settles O30. The checks fix the six bytes of the body, and the CRC the two that follow. -/
theorem wsrIsOkExactlyOnEcho : Obligations.WsrIsOkExactlyOnEcho := by
  intro a r v x hx
  rw [wsrVerdict_ok_iff, FrameCodec.buildWriteFrame_toList]
  constructor
  · rintro ⟨hcrc, ha, hf, hecho⟩
    match x, hx with
    | [x0, x1, x2, x3, x4, x5, x6, x7], _ =>
      obtain rfl : x0 = a := ha
      obtain rfl : x1 = 0x06#8 := hf
      have hbody : [x0, 0x06#8, x2, x3, x4, x5] = requestBody x0 0x06#8 r v := by
        simpa [requestBody] using hecho
      have hfield := crcOk_field [x0, 0x06#8, x2, x3, x4, x5] x6 x7
      rw [List.cons_append, List.cons_append, List.cons_append, List.cons_append, List.cons_append, List.cons_append,
        List.nil_append, hcrc, eq_comm, beq_iff_eq, hbody] at hfield
      rw [← hfield, Encoding.crcField_u16, ← hbody]
      rfl
  · rintro rfl
    exact ⟨crcOk_own _, rfl, rfl, rfl⟩

/-! A host's WSR. -/

theorem startWsr_eq (a : Byte) (r v : Word) (by_ : Caller) (s : State) :
    startWsr a r v by_ s =
      { s with
        txBuf := buildWriteFrame a r v
        txValid := true
        rxq := []
        de := true
        txTrace := s.txTrace ++ (buildWriteFrame a r v).toList.map (fun b => (b, true))
        uart := s.uart ++ (buildWriteFrame a r v).toList
        busy := true
        activity := .sending (.wsr a r v by_) } := startSend_eq _ _ _

/-- Wherever a host's WSR finds its eight bytes, it ends with the verdict of the checks (R87). -/
theorem wsr_ends {a : Byte} {r v : Word} {x rest : List Byte} {w : Window} {s₀ s : State} (hu : Untouched s₀ s)
    (hx : x.length = 8) (h : Arrived 8 (x ++ rest) w s) :
    ∃ u, receiveContinue (.wsr a r v .host) w s = .next u ∧ WsrEnds a r v x s₀ u ∧ u.de = s.de ∧ u.rxq = rest ∧
      u.uart = s.uart := by
  have hstored : Untouched s₀ (storeResponse x { s with rxq := rest }) := hu.trans (untouched_taken x rest s)
  cases hv : wsrVerdict a r v x with
  | ok =>
    obtain ⟨hregs, hsent, hsession, hother⟩ := hstored
    refine ⟨endCommand (setRes .ok (storeResponse x { s with rxq := rest })), receiveContinue_wsr_of_arrived hx h hv,
      ⟨?_, fun _ => ?_, ?_, ⟨rfl, rfl⟩, hregs, hsent, hsession, hother⟩, rfl, rfl, rfl⟩
    · rw [wsrAnswer_eq, hv]; rfl
    · exact holdsResponse_of_same (holdsResponse_storeResponse x { s with rxq := rest }) rfl rfl
    · exact fun hne => absurd rfl hne
  | error e =>
    obtain ⟨hc, hq⟩ := checkWindow_of_arrived hx h
    obtain ⟨hres, hlen, hend, hsame⟩ := errorEnd_host hstored e
    refine ⟨_, hq ▸ receiveContinue_wsr_of_error hc hv, ⟨?_, fun hok => ?_, fun _ => hlen, hend, hsame⟩, rfl, rfl, rfl⟩
    · rw [wsrAnswer_eq, hv]; exact hres
    · cases hres.symm.trans hok

/-- Settles O29. The run from the command's start leads to the end of its send with the response there. -/
theorem wsrSendsRequestAndJudgesResponse : Obligations.WsrSendsRequestAndJudgesResponse := by
  have sent : ∀ (a : Byte) (r v : Word) (x rest : List Byte) (s₀ s : State), x.length = 8 → Untouched s₀ s →
      SendOverWith (.wsr a r v .host) (x ++ rest) s →
      ∃ u, step s = .next u ∧ WsrEnds a r v x s₀ u ∧ u.de = false ∧ u.rxq = rest ∧ u.uart = [] := by
    intro a r v x rest s₀ s hx hu h
    obtain ⟨u, hstep, hends, hde, hq, huart⟩ :=
      wsr_ends (a := a) (r := r) (v := v) (hu.trans (untouched_sendEnded s)) hx
        (arrived_of_sendOverWith h 8 s.cfg.writeTimeoutMs)
    obtain ⟨hover, -⟩ := h
    obtain ⟨-, hempty, -⟩ := id hover
    exact ⟨u, (step_of_sendOver_wsr hover).trans hstep, hends, hde, hq, huart.trans hempty⟩
  refine ⟨?_, ?_, fun a r v x rest s hx h => sent a r v x rest s s hx (Untouched.refl s) h,
    fun a r v x rest w s hx h => wsr_ends (Untouched.refl s) hx h⟩
  · intro a r v x s hx hroom
    refine ⟨startWsr a r v .host s, rfl, startWsr_eq a r v .host s, ?_⟩
    obtain ⟨s', hsteps, hover, hu⟩ := steps_exchange (x := .wsr a r v .host) (bytes := x) (n := s.uart.length + 8)
      (t := startWsr a r v .host s) (by simp [startWsr]) (by simp [startWsr]) (by simp [startWsr])
      (by simpa [roomFor, startWsr, hx] using hroom)
    rw [hsteps]
    exact sent a r v x [] _ s' hx hu (by simpa using hover)
  · intro a r v by_ s hover hq
    rw [step_of_sendOver_wsr hover]
    refine ⟨fun hl => receiveContinue_opens hq hl, ?_⟩
    rintro hl rfl
    exact ((fails_of_zero_limit (y := .wsr a r v .host) (s := sendEnded s) hq hl).of_untouched (untouched_sendEnded s)).host

/-! RHR's checks (R89). -/

/-- Settles O35. The header's checks fix the first three bytes, and the CRC the last two. -/
theorem rhrAcceptsOnlyItsResponse : Obligations.RhrAcceptsOnlyItsResponse := by
  intro a count h b hh hle hb hv hcrc
  obtain ⟨h0, h1, h2, rfl⟩ := List.length_eq_three.mp hh
  obtain ⟨ha, hf, hcount⟩ := headerVerdict_ok hv
  obtain rfl : h0 = a := ha
  obtain rfl : h1 = 0x03#8 := hf
  have hdata : (b.take (2 * count.toNat)).length = 2 * count.toNat := by simp [hb]
  have hbyte : BitVec.ofNat 8 (2 * count.toNat) = h2 := by
    rw [← show h2.toNat = 2 * count.toNat from hcount, BitVec.ofNat_toNat, BitVec.setWidth_eq]
  have hresponse : responseBody h0 (b.take (2 * count.toNat)) = [h0, 0x03#8, h2] ++ b.take (2 * count.toNat) := by
    rw [responseBody, hdata, hbyte]
    rfl
  refine ⟨b.take (2 * count.toNat), hdata, ?_⟩
  have hsplit := Encoding.eq_take_append_pair hb
  rw [hsplit, ← List.append_assoc, ← hresponse, crcOk_field, beq_iff_eq] at hcrc
  rw [← hcrc, Encoding.crcField_u16, hresponse, List.append_assoc, ← hsplit]

/-! A host's RHR. -/

theorem startRhr_eq (a : Byte) (start count : Word) (by_ : Caller) (s : State) :
    startRhr a start count by_ s =
      { s with
        txBuf := buildReadFrame a start count
        txValid := true
        regCount := 0#6
        rxq := []
        de := true
        txTrace := s.txTrace ++ (buildReadFrame a start count).toList.map (fun b => (b, true))
        uart := s.uart ++ (buildReadFrame a start count).toList
        busy := true
        activity := .sending (.rhr a count by_) } := startSend_eq _ _ _

theorem exec_rhr_of_range {count : Word} (h1 : 1 ≤ count.toNat) (h32 : count.toNat ≤ 32) (a : Byte) (start : Word)
    (s : State) : exec (.rhr a start count) s = .next (startRhr a start count .host s) := by
  rw [exec, execRhr, if_pos (countInRange_iff.mpr ⟨h1, h32⟩)]

/-- A read's send is over, with the answer there, three steps after its start. -/
theorem steps_read (a : Byte) (start count : Word) (by_ : Caller) {bytes : List Byte} {s : State}
    (hroom : roomFor bytes.length s) :
    ∃ s', steps 3 (withAgenda [.drain (s.uart.length + 8), .deliver bytes, .mlb] (startRhr a start count by_ s)) =
        step s' ∧
      SendOverWith (.rhr a count by_) bytes s' ∧ Untouched (startRhr a start count by_ s) s' :=
  steps_exchange (by simp [startRhr]) (by simp [startRhr]) (by simp [startRhr]) (by simpa [roomFor, startRhr] using hroom)

theorem rhrEnds_of_stored {a : Byte} {count : Word} {data : List Byte} {s u : State} (hu : Untouched s u)
    (hd : data.length = 2 * count.toNat) :
    RhrEnds a count data s (endCommand (storeRead (responseFrame a data) u)) := by
  obtain ⟨-, hsent, hsession, hother⟩ := hu
  exact ⟨rfl, holdsRegisters_of_same (holdsRegisters_storeRead hd a u) rfl rfl,
    holdsResponse_of_same (holdsResponse_storeRead (responseFrame a data) u) rfl rfl, ⟨rfl, rfl⟩, hsent, hsession,
    hother⟩

/-- A correct header with too few bytes after it opens the body's window (R89). -/
theorem header_opens_body {a h2 : Byte} {count : Word} {by_ : Caller} {rest : List Byte} {w : Window} {s : State}
    (h : Arrived 3 (a :: 0x03#8 :: h2 :: rest) w s) (hh : h2.toNat = 2 * count.toNat)
    (hq : rest.length < 2 * count.toNat + 2) (hl : s.cfg.readTimeoutMs ≠ 0#32) :
    receiveContinue (.header a count by_) w s =
      .next { s with
              rxq := []
              busy := true
              activity := .receiving (.body count [a, 0x03#8, h2] by_)
                { need := 2 * count.toNat + 2, limit := s.cfg.readTimeoutMs, t0 := s.now, got := rest,
                  checkedAt := s.now } } := by
  rw [receiveContinue_header_of_arrived h hh]
  exact receiveContinue_opens (s := { s with rxq := rest }) hq hl

/-- Wherever a host's RHR finds its whole response, it ends Ok with the registers (R89). -/
theorem rhr_ends {a : Byte} {count : Word} {data rest : List Byte} {w : Window} {s₀ s : State}
    (hu : Untouched s₀ s) (hle : count.toNat ≤ 32) (hd : data.length = 2 * count.toNat)
    (h : Arrived 3 (responseFrame a data ++ rest) w s) :
    ∃ u, receiveContinue (.header a count .host) w s = .next u ∧ RhrEnds a count data s₀ u ∧ u.de = s.de ∧
      u.rxq = rest :=
  ⟨_, receiveContinue_header_of_response hle hd h, rhrEnds_of_stored (hu.trans (untouched_setRxq rest s)) hd, rfl, rfl⟩

theorem sent_rhr_ends {a : Byte} {count : Word} {data rest : List Byte} {s₀ s : State} (hu : Untouched s₀ s)
    (hle : count.toNat ≤ 32) (hd : data.length = 2 * count.toNat)
    (h : SendOverWith (.rhr a count .host) (responseFrame a data ++ rest) s) :
    ∃ u, step s = .next u ∧ RhrEnds a count data s₀ u ∧ u.de = false ∧ u.rxq = rest := by
  rw [step_of_sendOver_rhr h.1]
  exact rhr_ends (hu.trans (untouched_sendEnded s)) hle hd (arrived_of_sendOverWith h 3 _)

/-- Settles O32. -/
theorem rhrReadsRegisters : Obligations.RhrReadsRegisters := by
  refine ⟨?_, ?_, ?_, fun a count data rest s hle hd h => sent_rhr_ends (Untouched.refl s) hle hd h, ?_,
    fun a count data rest w s hle hd h => rhr_ends (Untouched.refl s) hle hd h, ?_⟩
  · intro a start count data s h1 h32 hd hroom
    refine ⟨_, exec_rhr_of_range h1 h32 a start s, startRhr_eq a start count .host s, ?_⟩
    obtain ⟨s', hsteps, hover, hu⟩ := steps_read a start count .host (bytes := responseFrame a data) (s := s)
      (by rw [responseFrame_length, hd]; exact hroom)
    rw [hsteps]
    exact sent_rhr_ends hu h32 hd (by simpa using hover)
  · intro a count by_ s hover hq
    rw [step_of_sendOver_rhr hover]
    refine ⟨fun hl => receiveContinue_opens hq hl, ?_⟩
    rintro hl rfl
    exact ((fails_of_zero_limit (y := .header a count .host) (s := sendEnded s) hq hl).of_untouched (untouched_sendEnded s)).host
  · intro a count by_ h2 rest s h hh hq
    have harrived := arrived_of_sendOverWith h 3 s.cfg.readTimeoutMs
    rw [step_of_sendOver_rhr h.1]
    refine ⟨fun hl => header_opens_body harrived hh hq hl, ?_⟩
    rintro hl rfl
    exact ((response_times_out (by_ := .host) harrived hh hq hl).of_untouched (untouched_sendEnded s)).host
  · intro a count by_ h2 rest w s h hh hq
    refine ⟨fun hl => header_opens_body h hh hq hl, ?_⟩
    rintro hl rfl
    obtain ⟨u, hu, hfails, -, hrxq⟩ := (response_times_out (by_ := .host) h hh hq hl).host
    exact ⟨u, hu, hfails, hrxq⟩
  · intro a count data rest w s hle hd h
    exact ⟨_, receiveContinue_body_of_response hd h, rhrEnds_of_stored (untouched_setRxq rest s) hd, rfl, rfl⟩

/-- What a host's RHR fails with at the end of its send, it fails with after the run from its start; until then it has
written REGCOUNT and the frame only. -/
theorem read_fails {a : Byte} {start count : Word} {bytes rest : List Byte} {e : ProtocolError} {s : State}
    (h1 : 1 ≤ count.toNat) (h32 : count.toNat ≤ 32) (hroom : roomFor bytes.length s)
    (hfails : ∀ s', SendOverWith (.rhr a count .host) bytes s' → FailsWith .host e rest false s' (step s')) :
    ∃ t u, exec (.rhr a start count) s = .next t ∧
      steps 3 (withAgenda [.drain (s.uart.length + 8), .deliver bytes, .mlb] t) = .next u ∧
      HostFails e t u ∧ SessionSame s u ∧ OtherSame s u ∧ u.de = false ∧ u.rxq = rest ∧ u.regCount = 0#6 ∧
      u.regs = s.regs := by
  obtain ⟨s', hsteps, hover, hu⟩ := steps_read a start count .host hroom
  obtain ⟨u, hstep, hend, hde, hq⟩ := ((hfails s' hover).of_untouched hu).host
  obtain ⟨-, -, -, ⟨hregs, hcount⟩, -, hsession, hother⟩ := id hend
  have hst : SessionSame s (startRhr a start count .host s) := by simp [SessionSame, startRhr]
  have hot : OtherSame s (startRhr a start count .host s) := by simp [OtherSame, startRhr]
  exact ⟨_, u, exec_rhr_of_range h1 h32 a start s, hsteps.trans hstep, hend, SessionSame.trans hst hsession,
    OtherSame.trans hot hother, hde, hq, hcount.trans (by simp [startRhr]), hregs.trans (by simp [startRhr])⟩

theorem sent_header_fails {a h0 h1 h2 : Byte} {count : Word} {by_ : Caller} {rest : List Byte} {s : State}
    (h : SendOverWith (.rhr a count by_) (h0 :: h1 :: h2 :: rest) s) (hbad : BadHeader a count h0 h1 h2) :
    FailsWith (roleOf (.header a count by_)) (headerError a h0 h1) rest false s (step s) := by
  rw [step_of_sendOver_rhr h.1]
  exact (header_fails (arrived_of_sendOverWith h 3 _) hbad).of_untouched (untouched_sendEnded s)

theorem sent_response_fails {a h2 : Byte} {count : Word} {by_ : Caller} {b rest : List Byte} {s : State}
    (h : SendOverWith (.rhr a count by_) (a :: 0x03#8 :: h2 :: (b ++ rest)) s) (hh : h2.toNat = 2 * count.toNat)
    (hb : b.length = 2 * count.toNat + 2) (hcrc : crcOk (a :: 0x03#8 :: h2 :: b) = false) :
    FailsWith (roleOf (.header a count by_)) .crcMismatch rest false s (step s) := by
  rw [step_of_sendOver_rhr h.1]
  exact (response_fails (arrived_of_sendOverWith h 3 _) hh hb hcrc).of_untouched (untouched_sendEnded s)

/-- Settles O33. -/
theorem rhrHeaderErrorsEndTheExchange : Obligations.RhrHeaderErrorsEndTheExchange := by
  refine ⟨?_, fun a count h0 h1 h2 rest s h hbad => (sent_header_fails (by_ := .host) h hbad).host,
    fun a count h0 h1 h2 rest w s h hbad => (header_fails (by_ := .host) h hbad).host⟩
  intro a start count h0 h1 h2 rest s hc1 hc32 hroom hbad
  exact read_fails hc1 hc32 (fun c hc => by have := hroom c hc; simp only [List.length_cons]; omega)
    fun s' hover => sent_header_fails (by_ := .host) hover hbad

/-- Settles O34. -/
theorem rhrCrcMismatch : Obligations.RhrCrcMismatch := by
  refine ⟨?_, ?_, fun count h b rest w s harrived hcrc => (body_fails (by_ := .host) harrived hcrc).host⟩
  · intro a start count h2 b s hc1 hc32 hh hb hroom hcrc
    exact read_fails hc1 hc32 (by simpa [hb] using hroom)
      fun s' hover => sent_response_fails (by_ := .host) (by simpa using hover) hh hb hcrc
  · intro a count h2 b rest s hh hb hcrc
    exact ⟨fun h => (sent_response_fails (by_ := .host) h hh hb hcrc).host,
      fun w h => (response_fails (by_ := .host) h hh hb hcrc).host⟩

/-- Settles O36. All four receives are the host's. -/
theorem exchangeTimesOut : Obligations.ExchangeTimesOut := by
  intro s x w hx ha hn hover
  have hrole : roleOf x = .host := by
    obtain rfl | ⟨a, r, v, rfl⟩ | ⟨a, c, rfl⟩ | ⟨c, h, rfl⟩ := hx <;> rfl
  have hfails := step_fails_of_windowOver ha hn hover
  rw [hrole] at hfails
  obtain ⟨u, hstep, hend, hde, hq⟩ := hfails.host
  exact ⟨u, hstep, hend, hq, hde⟩

end Sys2Proof.Proofs.RegisterClient
end

section
/-! SUPPORT. The session FSM's exchanges (44_session_fsm.md): the start write, the polls, and how each ends. -/

namespace Sys2Proof.Proofs.SessionFsm

open Sys2Proof Sys2Proof.Machine Sys2Proof.Safety Sys2Proof.Proofs.Exchange Sys2Proof.Proofs.Transport
open Sys2Proof.Proofs.RegisterClient Sys2Proof.Proofs.Outcome

/-! Cards and ticks that begin no exchange. -/

theorem exec_evCard_reject (id : CardId) {s : State} (h : s.fsm = .idle) :
    exec (.evCard id none) s = .next (emit (.rejected id) s) := by
  rw [exec, execEvCard, if_pos h]

/-- Settles O37. -/
theorem unauthorizedCardIsRejected : Obligations.UnauthorizedCardIsRejected :=
  fun id _ h => exec_evCard_reject id h

theorem timerDue_iff {now start limit : Ms} : timerDue now start limit = true ↔ limit.toNat ≤ (now - start).toNat := by
  rw [timerDue, decide_eq_true_iff]
  rfl

theorem timerDue_eq_false_iff {now start limit : Ms} :
    timerDue now start limit = false ↔ (now - start).toNat < limit.toNat := by
  rw [← Bool.not_eq_true, timerDue_iff, Nat.not_le]

theorem exec_evTick_active {s : State} (h : s.fsm = .sessionActive) :
    exec .evTick s =
      if pollDue s then .next (startRhr s.cfg.slaveAddress 1#16 6#16 .fsm (beginPoll s)) else .next s := by
  change execEvTick s = _
  simp only [execEvTick, h]

theorem exec_evTick_closing {s : State} (h : s.fsm = .sessionClosing) :
    exec .evTick s = if summaryOver s then .next (returnToIdle s) else .next s := by
  change execEvTick s = _
  simp only [execEvTick, h]

/-- Settles O41. -/
theorem tickWithoutExchange : Obligations.TickWithoutExchange := by
  refine ⟨fun s hf => ?_, fun s hf hseed ht => ?_, fun s hf ht => ?_, fun s hf ht => ?_⟩
  · change execEvTick s = _
    simp only [execEvTick, hf]
  · have hnotDue : pollDue s = false := by simp [pollDue, hseed, timerDue_eq_false_iff.mpr ht]
    rw [exec_evTick_active hf, hnotDue, if_neg Bool.false_ne_true]
  · have hopen : summaryOver s = false := timerDue_eq_false_iff.mpr ht
    rw [exec_evTick_closing hf, hopen, if_neg Bool.false_ne_true]
  · have hover : summaryOver s = true := timerDue_iff.mpr ht
    rw [exec_evTick_closing hf, if_pos hover]
    rfl

/-! The start write (R93 to R95). -/

theorem exec_evCard_start (id : CardId) (plate : Plate) {s : State} (h : s.fsm = .idle) :
    exec (.evCard id (some plate)) s =
      .next (startWsr s.cfg.slaveAddress 0#16 1#16 .fsm (beginStart id plate s)) := by
  rw [exec, execEvCard, if_pos h]

/-- The start write's send is over, with the answer there, three steps after the card. -/
theorem steps_start (id : CardId) (plate : Plate) {x : List Byte} {s : State} (hx : x.length = 8)
    (hroom : roomFor 8 s) :
    ∃ s', steps 3 (withAgenda [.drain (s.uart.length + 8), .deliver x, .mlb]
          (startWsr s.cfg.slaveAddress 0#16 1#16 .fsm (beginStart id plate s))) = step s' ∧
      SendOverWith (.wsr s.cfg.slaveAddress 0#16 1#16 .fsm) x s' ∧
      Untouched (startWsr s.cfg.slaveAddress 0#16 1#16 .fsm (beginStart id plate s)) s' :=
  steps_exchange (by simp [startWsr]) (by simp [startWsr]) (by simp [startWsr])
    (by simpa [roomFor, startWsr, hx] using hroom)

/-- What R94 makes of a stored echo. -/
theorem sessionStarts_of_stored {x : List Byte} {id : CardId} {plate : Plate} {s u : State} (hu : Untouched s u) :
    SessionStarts x id plate s (endCommand (startOkWith id plate (setRes .ok (storeResponse x u)))) := by
  obtain ⟨⟨hregs, hcount⟩, ⟨hbuf, hvalid, htrace⟩, ⟨-, -, -, hpoll, hclose, -, -, -, hlog⟩,
    ⟨hcfg, hparams, hcrc, hrefused, hnow, hport⟩⟩ := hu
  refine ⟨by simp, by simp, by simp, by simp, by simp, by simp, by simp [hlog], by simp [hpoll], by simp [hclose],
    by simp, ?_, ⟨by simp, by simp⟩, ⟨by simp [hregs], by simp [hcount]⟩,
    ⟨by simp [hbuf], by simp [hvalid], by simp [htrace]⟩,
    ⟨by simp [hcfg], by simp [hparams], by simp [hcrc], by simp [hrefused], by simp [hnow], by simp [hport]⟩⟩
  exact holdsResponse_of_same (holdsResponse_storeResponse x u) (by simp) (by simp)

/-- Wherever the start write finds its echo, the session starts (R94). -/
theorem start_succeeds {id : CardId} {plate : Plate} {a : Byte} {r v : Word} {rest : List Byte} {w : Window}
    {s₀ s : State} (hu : Untouched s₀ s) (hp : s₀.pending = some (id, plate))
    (h : Arrived 8 ((buildWriteFrame a r v).toList ++ rest) w s) :
    ∃ u, receiveContinue (.wsr a r v .fsm) w s = .next u ∧
      SessionStarts (buildWriteFrame a r v).toList id plate s₀ u ∧ u.de = s.de ∧ u.rxq = rest := by
  have hlen : (buildWriteFrame a r v).toList.length = 8 := rfl
  have hv : wsrVerdict a r v (buildWriteFrame a r v).toList = .ok := (wsrIsOkExactlyOnEcho a r v _ hlen).mpr rfl
  obtain ⟨-, -, -, -, -, hpending, -⟩ := hu.sessionSame
  have hcard : s.pending = some (id, plate) := hpending.trans hp
  refine ⟨_, ?_, sessionStarts_of_stored (hu.trans (untouched_setRxq rest s)), by simp, by simp⟩
  rw [receiveContinue_wsr_of_arrived hlen h hv]
  simp only [endWsr, startOk, setRes_pending, storeResponse_pending, hcard]

theorem sent_start_succeeds {id : CardId} {plate : Plate} {a : Byte} {r v : Word} {rest : List Byte}
    {s₀ s : State} (hu : Untouched s₀ s) (hp : s₀.pending = some (id, plate))
    (h : SendOverWith (.wsr a r v .fsm) ((buildWriteFrame a r v).toList ++ rest) s) :
    ∃ u, step s = .next u ∧ SessionStarts (buildWriteFrame a r v).toList id plate s₀ u ∧ u.de = false ∧
      u.rxq = rest := by
  rw [step_of_sendOver_wsr h.1]
  exact start_succeeds (hu.trans (untouched_sendEnded s)) hp (arrived_of_sendOverWith h 8 _)

/-- Settles O39. -/
theorem authorizedCardStartsSession : Obligations.AuthorizedCardStartsSession := by
  refine ⟨?_, fun id plate a r v rest s hp h => sent_start_succeeds (Untouched.refl s) hp h,
    fun id plate a r v rest w s hp h => start_succeeds (Untouched.refl s) hp h⟩
  intro id plate s hf hroom
  refine ⟨_, exec_evCard_start id plate hf, startWsr_eq _ _ _ _ _, ?_⟩
  obtain ⟨s', hsteps, hover, hu⟩ := steps_start id plate
    (x := (buildWriteFrame s.cfg.slaveAddress 0#16 1#16).toList) (s := s) rfl hroom
  rw [hsteps]
  exact sent_start_succeeds hu (by simp [startWsr]) (by simpa using hover)

/-- Eight bytes other than the echo have a first failing check (R87). -/
theorem wsrVerdict_error_of_ne {a : Byte} {r v : Word} {x : List Byte} (hx : x.length = 8)
    (hne : x ≠ (buildWriteFrame a r v).toList) : ∃ e, wsrVerdict a r v x = .error e := by
  cases hv : wsrVerdict a r v x with
  | ok => exact absurd ((wsrIsOkExactlyOnEcho a r v x hx).mp hv) hne
  | error e => exact ⟨e, rfl⟩

theorem sent_start_fails {a : Byte} {r v : Word} {x rest : List Byte} {e : ProtocolError} {s : State}
    (hx : x.length = 8) (hv : wsrVerdict a r v x = .error e) (h : SendOverWith (.wsr a r v .fsm) (x ++ rest) s) :
    FailsWith .start e rest false s (step s) := by
  rw [step_of_sendOver_wsr h.1]
  exact (wsr_fails (by_ := .fsm) hx (arrived_of_sendOverWith h 8 _) hv).of_untouched (untouched_sendEnded s)

/-! However the FSM's exchange ends in an error. -/

/-- Whom the end of the exchange in progress concerns. -/
def activityRole : Activity → Role
  | .none => .host
  | .sending .command => .host
  | .sending (.wsr a r v by_) => roleOf (.wsr a r v by_)
  | .sending (.rhr a count by_) => roleOf (.header a count by_)
  | .receiving x _ => roleOf x

theorem activityRole_of_start {a : Activity} (h : startInProgress a = true) : activityRole a = .start := by
  unfold startInProgress at h
  split at h
  · rfl
  · rfl
  · cases h

theorem activityRole_of_poll {a : Activity} (h : pollInProgress a = true) : activityRole a = .poll := by
  unfold pollInProgress at h
  split at h
  · rfl
  · rfl
  · rfl
  · cases h

theorem endRhr_ok_res (by_ : Caller) (u : State) : (endRhr by_ .ok u).res = u.res := by
  cases by_ with
  | host => rfl
  | fsm =>
    rw [endRhr, pollOk, pollOkWith]
    split <;> rfl

/-- A check that ends its exchange with RES an error made that error end. -/
theorem errorEnd_of_afterCheck {x : Receiver} {w : Window} {s t : State} {e : ProtocolError}
    (h : AfterCheck x w s t) (ha : t.activity = .none) (hr : t.res = .error e) :
    ∃ u, Untouched s u ∧ t = errorEnd (roleOf x) e u := by
  induction h with
  | waits => cases ha
  | @timesOut x w s hc =>
    rw [errorEnd_res] at hr
    obtain rfl := Res.error.inj hr
    exact ⟨_, untouched_takeRx w s, rfl⟩
  | fails e' hc hu =>
    rw [errorEnd_res] at hr
    obtain rfl := Res.error.inj hr
    exact ⟨_, untouched_of_taken hu, rfl⟩
  | received => cases hr
  | echoed hc ht =>
    obtain ⟨-, rfl⟩ | ⟨-, e', he, -⟩ | ⟨-, -, id, plate, -, rfl⟩ := endWsr_cases ht
    · cases hr
    · cases he
    · cases hr
  | @opensBody w s t g a count by_ hc hv ht ih =>
    obtain ⟨u, hu, rfl⟩ := ih ha hr
    exact ⟨u, (untouched_takeRx w s).trans hu, by rw [roleOf_body a]⟩
  | read =>
    rw [endRhr_ok_res] at hr
    cases hr

/-- So does a turn of the control loop that ends an exchange of the FSM with RES an error. -/
theorem errorEnd_of_loopOutcome {s t : State} {e : ProtocolError} (hfsm : activityRole s.activity ≠ .host)
    (h : LoopOutcome s t) (ha : t.activity = .none) (hr : t.res = .error e) :
    ∃ u, Untouched s u ∧ t = errorEnd (activityRole s.activity) e u := by
  cases h with
  | idles => rw [ha] at hfsm; exact absurd rfl hfsm
  | sent hs => rw [hs] at hfsm; exact absurd rfl hfsm
  | sentWsr a r v by_ hs ht =>
    obtain ⟨u, hu, rfl⟩ := errorEnd_of_afterCheck ht ha hr
    exact ⟨u, (untouched_setDe false s).trans hu, by rw [hs]; rfl⟩
  | sentRhr a count by_ hs ht =>
    obtain ⟨u, hu, rfl⟩ := errorEnd_of_afterCheck ht ha hr
    exact ⟨u, (untouched_setDe false s).trans hu, by rw [hs]; rfl⟩
  | checks x w hs ht =>
    obtain ⟨u, hu, rfl⟩ := errorEnd_of_afterCheck ht ha hr
    exact ⟨u, hu, by rw [hs]; rfl⟩
  | refuses hs => rw [hs] at hfsm; exact absurd rfl hfsm
  | runs i c rest hs => rw [hs] at hfsm; exact absurd rfl hfsm

theorem errorEnd_of_step {s t : State} {e : ProtocolError} (hfsm : activityRole s.activity ≠ .host)
    (hn : nextTurn s = .mlb) (h : step s = .next t) (ha : t.activity = .none) (hr : t.res = .error e) :
    ∃ u, Untouched s u ∧ t = errorEnd (activityRole s.activity) e u := by
  rw [step_mlb hn] at h
  obtain ⟨u, hu, ht⟩ := errorEnd_of_loopOutcome (s := takeTurn s) hfsm (loopOutcome_of_mlbTurn h) ha hr
  exact ⟨u, (untouched_takeTurn s).trans hu, ht⟩

/-- Settles O40. -/
theorem failedStartReturnsToIdle : Obligations.FailedStartReturnsToIdle := by
  refine ⟨?_, ?_, ?_, ?_, ?_, ?_⟩
  · intro card plate x s hf hroom hx hne
    obtain ⟨e, hv⟩ := wsrVerdict_error_of_ne hx hne
    obtain ⟨s', hsteps, hover, hu⟩ := steps_start card plate (s := s) hx hroom
    obtain ⟨u, hstep, hend, hde, -⟩ :=
      ((sent_start_fails hx hv (rest := []) (by simpa using hover)).of_untouched hu).start
    obtain ⟨-, -, hsession, hprev, hseed, hreading, hlog, hpoll, hclose, -, -, -, ⟨hregs, hcount⟩, -, hother⟩ := id hend
    have hst : OtherSame s (startWsr s.cfg.slaveAddress 0#16 1#16 .fsm (beginStart card plate s)) := by
      simp [OtherSame, startWsr]
    refine ⟨_, u, e, exec_evCard_start card plate hf, (wsrAnswer_eq _ _ _ x).trans hv, hsteps.trans hstep, hend, ?_⟩
    simp only [startWsr, startSend_session, startSend_prevActive, startSend_seedPending, startSend_lastReading,
      startSend_evLog, startSend_lastPollMs, startSend_closeMs, startSend_regs, startSend_regCount] at *
    exact ⟨hsession, hprev, hseed, hreading, hlog, hpoll, hclose, ⟨hregs, hcount⟩, OtherSame.trans hst hother, hde⟩
  · intro a r v x rest s hx hne h
    obtain ⟨e, hv⟩ := wsrVerdict_error_of_ne hx hne
    obtain ⟨u, hu, hend⟩ := (sent_start_fails hx hv h).start
    exact ⟨u, e, hu, (wsrAnswer_eq a r v x).trans hv, hend⟩
  · intro a r v s hover hq hl
    rw [step_of_sendOver_wsr hover]
    exact ((fails_of_zero_limit (y := .wsr a r v .fsm) (s := sendEnded s) hq hl).of_untouched
      (untouched_sendEnded s)).start
  · intro a r v x rest w s hx hne h
    obtain ⟨e, hv⟩ := wsrVerdict_error_of_ne hx hne
    obtain ⟨u, hu, hend⟩ := (wsr_fails (by_ := .fsm) hx h hv).start
    exact ⟨u, e, hu, (wsrAnswer_eq a r v x).trans hv, hend⟩
  · exact fun a r v w s ha hn hover => (step_fails_of_windowOver ha hn hover).start
  · intro s u e hstart hn h ha hr
    have hrole := activityRole_of_start hstart
    obtain ⟨v, hv, rfl⟩ := errorEnd_of_step (by rw [hrole]; nofun) hn h ha hr
    rw [hrole]
    exact errorEnd_start hv e

/-! The polls (R96 to R99). -/

theorem u16_getLsbD_one (hi lo : Byte) : (u16 hi lo).getLsbD 1 = lo.getLsbD 1 := by
  simp [u16]

theorem fallingEdge_iff {p b : Bool} : fallingEdge p b = true ↔ p = true ∧ b = false := by
  simp [fallingEdge]

/-- A reading that is no falling edge (R97). -/
theorem pollOkWith_of_stay {m : MeterReading} {s : State}
    (h : fallingEdge s.prevActive (sessionActiveBit m.status) = false) :
    pollOkWith m s = setPrevActive (sessionActiveBit m.status) (takeReading m s) := by
  simp only [pollOkWith, h, Bool.false_eq_true, if_false]

/-- The falling edge (R98). -/
theorem pollOkWith_of_fall {m : MeterReading} {s : State}
    (h : fallingEdge s.prevActive (sessionActiveBit m.status) = true) :
    pollOkWith m s = setPrevActive (sessionActiveBit m.status) (closeSession (takeReading m s)) := by
  simp only [pollOkWith, h, if_true]

theorem pollOk_rxq (u : State) : (pollOk u).rxq = u.rxq := by
  rw [pollOk, pollOkWith]
  split <;> rfl

/-- What R97 and R98 make of the reading `m`, in a state that holds its response and registers. -/
theorem pollSucceeds_pollOkWith {a : Byte} {data : List Byte} (m : MeterReading) {s v : State}
    (hsession : SessionSame s v) (hsent : SentSame s v) (hother : OtherSame s v) (hres : v.res = .ok)
    (hregs : HoldsRegisters 6 data v) (hresponse : HoldsResponse (responseFrame a data) v) :
    PollSucceeds a data m (sessionActiveBit m.status) s (endCommand (pollOkWith m v)) := by
  obtain ⟨hfsm, hprev, hseed, hpoll, hclose, hpending, hrecord, -, hlog⟩ := hsession
  have hnow : v.now = s.now := by
    obtain ⟨-, -, -, -, hnow, -⟩ := hother
    exact hnow
  by_cases hfall : s.prevActive = true ∧ sessionActiveBit m.status = false
  · rw [pollOkWith_of_fall (fallingEdge_iff.mpr (hprev ▸ hfall))]
    refine ⟨by simp, by simp, by simp, by simp [hseed], by simp [hpoll], by simp [hpending], by simp [hrecord],
      by simp [hrecord], by simp [hres], holdsRegisters_of_same hregs (by simp) (by simp),
      holdsResponse_of_same hresponse (by simp) (by simp), ⟨by simp, by simp⟩,
      SentSame.trans hsent (by simp [SentSame]), OtherSame.trans hother (by simp [OtherSame]), ?_⟩
    rw [if_pos hfall]
    simp [hnow, hlog]
  · have hstay : fallingEdge v.prevActive (sessionActiveBit m.status) = false := by
      rw [← Bool.not_eq_true, fallingEdge_iff, hprev]
      exact hfall
    rw [pollOkWith_of_stay hstay]
    refine ⟨by simp, by simp, by simp, by simp [hseed], by simp [hpoll], by simp [hpending], by simp [hrecord],
      by simp [hrecord], by simp [hres], holdsRegisters_of_same hregs (by simp) (by simp),
      holdsResponse_of_same hresponse (by simp) (by simp), ⟨by simp, by simp⟩,
      SentSame.trans hsent (by simp [SentSame]), OtherSame.trans hother (by simp [OtherSame]), ?_⟩
    rw [if_neg hfall]
    simp [hfsm, hrecord, hclose, hlog]

theorem pollSucceeds_of_stored {a : Byte} {data : List Byte} {m : MeterReading} {s u : State}
    (hu : Untouched s u) (hd : data.length = 12)
    (hm : decodeReading (storeRead (responseFrame a data) u).regs = m) :
    PollSucceeds a data m (sessionActiveBit m.status) s
      (endCommand (pollOk (storeRead (responseFrame a data) u))) := by
  obtain ⟨hother, hsent, -⟩ :=
    (Frame.linkSame_of_untouched hu).trans (Frame.linkSame_storeRead (responseFrame a data) u)
  have hsession : SessionSame s (storeRead (responseFrame a data) u) :=
    SessionSame.trans hu.sessionSame (sessionSame_storeRead _ u)
  rw [pollOk, hm]
  exact pollSucceeds_pollOkWith m hsession hsent hother rfl (holdsRegisters_storeRead hd a u)
    (holdsResponse_storeRead _ u)

theorem decodeReading_storeRead {d0 d1 d2 d3 d4 d5 d6 d7 d8 d9 d10 d11 : Byte} (a : Byte) (s : State) :
    decodeReading
        (storeRead (responseFrame a [d0, d1, d2, d3, d4, d5, d6, d7, d8, d9, d10, d11]) s).regs =
      { status := u16 d0 d1, sessionCl := u32 (u16 d2 d3) (u16 d4 d5), totalCl := u32 (u16 d6 d7) (u16 d8 d9),
        flowClPerMin := u16 d10 d11 } := by
  simp only [storeRead, setRes_regs, storeRegs_regs, responseData_responseFrame]
  exact FrameCodec.decodeReading_regsOf _ _ _ _ _ _ _

/-- Wherever a poll finds its response, it takes the reading (R97). -/
theorem poll_succeeds {a : Byte} {data rest : List Byte} {m : MeterReading} {w : Window} {s₀ s : State}
    (hu : Untouched s₀ s) (hd : data.length = 12)
    (hm : ∀ u, decodeReading (storeRead (responseFrame a data) u).regs = m)
    (h : Arrived 3 (responseFrame a data ++ rest) w s) :
    ∃ u, receiveContinue (.header a 6#16 .fsm) w s = .next u ∧
      PollSucceeds a data m (sessionActiveBit m.status) s₀ u ∧ u.de = s.de ∧ u.rxq = rest :=
  ⟨_, receiveContinue_header_of_response (by decide) hd h,
    pollSucceeds_of_stored (hu.trans (untouched_setRxq rest s)) hd (hm _), Consistent.pollOk_de _, pollOk_rxq _⟩

theorem sent_poll_succeeds {a : Byte} {data rest : List Byte} {m : MeterReading} {s₀ s : State}
    (hu : Untouched s₀ s) (hd : data.length = 12)
    (hm : ∀ u, decodeReading (storeRead (responseFrame a data) u).regs = m)
    (h : SendOverWith (.rhr a 6#16 .fsm) (responseFrame a data ++ rest) s) :
    ∃ u, step s = .next u ∧ PollSucceeds a data m (sessionActiveBit m.status) s₀ u ∧ u.de = false ∧ u.rxq = rest := by
  rw [step_of_sendOver_rhr h.1]
  exact poll_succeeds (hu.trans (untouched_sendEnded s)) hd hm (arrived_of_sendOverWith h 3 _)

theorem exec_evTick_poll {s : State} (hf : s.fsm = .sessionActive)
    (hdue : s.seedPending = true ∨ s.cfg.pollIntervalMs.toNat ≤ (s.now - s.lastPollMs).toNat) :
    exec .evTick s = .next (startRhr s.cfg.slaveAddress 1#16 6#16 .fsm (beginPoll s)) := by
  have hpoll : pollDue s = true := by
    rw [pollDue, Bool.or_eq_true, timerDue_iff]
    exact hdue
  rw [exec_evTick_active hf, if_pos hpoll]

/-- Settles O42. -/
theorem duePollTakesReading : Obligations.DuePollTakesReading := by
  intro d0 d1 d2 d3 d4 d5 d6 d7 d8 d9 d10 d11 data m
  have hd : data.length = 12 := rfl
  have hm : ∀ a u, decodeReading (storeRead (responseFrame a data) u).regs = m := decodeReading_storeRead
  rw [← show sessionActiveBit m.status = d1.getLsbD 1 from u16_getLsbD_one d0 d1]
  refine ⟨?_, fun a rest s h => sent_poll_succeeds (Untouched.refl s) hd (hm a) h,
    fun a rest w s h => poll_succeeds (Untouched.refl s) hd (hm a) h, ?_⟩
  · intro s hf hdue hroom
    refine ⟨_, exec_evTick_poll hf hdue, startRhr_eq _ _ _ _ _, ?_⟩
    obtain ⟨s', hsteps, hover, hu⟩ := steps_read s.cfg.slaveAddress 1#16 6#16 .fsm
      (bytes := responseFrame s.cfg.slaveAddress data) (s := beginPoll s)
      (by rw [responseFrame_length, hd]; exact hroom)
    rw [show s.uart = (beginPoll s).uart from rfl, hsteps]
    exact sent_poll_succeeds hu hd (hm _) (by simpa using hover)
  · intro a rest w s h
    have hheader : [a, 0x03#8, 0x0C#8] = (responseFrame a data).take 3 := rfl
    rw [hheader, receiveContinue_body_of_response (count := 6#16) hd h]
    exact ⟨_, rfl, pollSucceeds_of_stored (untouched_setRxq rest s) hd (hm a _), Consistent.pollOk_de _, pollOk_rxq _⟩

/-! The readings of a session (R98, R99). -/

/-- Readings that all show the same bit, and do not begin with the falling edge, close nothing (R99). -/
theorem pollSequence_of_constant {b : Bool} {readings : List MeterReading} {s : State}
    (hb : ∀ m ∈ readings, sessionActiveBit m.status = b) (hs : fallingEdge s.prevActive b = false) :
    (pollSequence readings s).fsm = s.fsm ∧
      (pollSequence readings s).evLog = s.evLog ++ readings.map .updated ∧
      (readings ≠ [] → (pollSequence readings s).prevActive = b) := by
  induction readings generalizing s with
  | nil => simp [pollSequence]
  | cons m readings ih =>
    obtain ⟨hm, hrest⟩ := List.forall_mem_cons.mp hb
    have hnext : pollOkWith m s = setPrevActive b (takeReading m s) := by
      rw [pollOkWith_of_stay (by rw [hm]; exact hs), hm]
    have hedge : fallingEdge (pollOkWith m s).prevActive b = false := by
      rw [hnext]
      cases b <;> rfl
    obtain ⟨hfsm, hlog, hprev⟩ := ih hrest hedge
    have hcons : pollSequence (m :: readings) s = pollSequence readings (pollOkWith m s) := rfl
    rw [hcons]
    refine ⟨hfsm.trans (by simp [hnext]), hlog.trans (by simp [hnext]), fun _ => ?_⟩
    cases readings with
    | nil => simp [pollSequence, hnext]
    | cons => exact hprev (List.cons_ne_nil _ _)

/-- Settles O44. -/
theorem sessionClosesOnceOnTheFallingEdge : Obligations.SessionClosesOnceOnTheFallingEdge := by
  refine ⟨fun readings s hf hprev hb => ?_, fun readings last s hf hne hb hlast => ?_⟩
  · obtain ⟨hfsm, hlog, -⟩ := pollSequence_of_constant (b := false) (s := s) hb (by simp [fallingEdge, hprev])
    exact ⟨hfsm.trans hf, hlog⟩
  · obtain ⟨hfsm, hlog, hprev⟩ := pollSequence_of_constant (b := true) (s := s) hb (by simp [fallingEdge])
    have hfall : fallingEdge (pollSequence readings s).prevActive (sessionActiveBit last.status) = true :=
      fallingEdge_iff.mpr ⟨hprev hne, hlast⟩
    have happend : pollSequence (readings ++ [last]) s = pollOkWith last (pollSequence readings s) := by
      simp [pollSequence]
    rw [happend, pollOkWith_of_fall hfall]
    simp [hlog]

/-- Settles O43. -/
theorem failedPollKeepsSession : Obligations.FailedPollKeepsSession := by
  refine ⟨?_, ?_, fun a count h0 h1 h2 rest s h hbad => (sent_header_fails (by_ := .fsm) h hbad).poll, ?_,
    fun a count h0 h1 h2 rest w s h hbad => (header_fails (by_ := .fsm) h hbad).poll,
    fun count h b rest w s harrived hcrc => (body_fails (by_ := .fsm) harrived hcrc).poll, ?_⟩
  · intro x w s hx ha hn hover
    have hrole : roleOf x = .poll := by
      obtain ⟨a, c, rfl⟩ | ⟨c, h, rfl⟩ := hx <;> rfl
    have hfails := step_fails_of_windowOver ha hn hover
    rw [hrole] at hfails
    exact hfails.poll
  · intro a count s hl
    refine ⟨fun hover hq => ?_, fun h2 rest hh hq => ⟨fun h => ?_, fun w h => ?_⟩⟩
    · rw [step_of_sendOver_rhr hover]
      exact ((fails_of_zero_limit (y := .header a count .fsm) (s := sendEnded s) hq hl).of_untouched
        (untouched_sendEnded s)).poll
    · rw [step_of_sendOver_rhr h.1]
      exact ((response_times_out (by_ := .fsm) (arrived_of_sendOverWith h 3 _) hh hq hl).of_untouched
        (untouched_sendEnded s)).poll
    · exact (response_times_out (by_ := .fsm) h hh hq hl).poll
  · intro a count h2 b rest s hh hb hcrc
    exact ⟨fun h => (sent_response_fails (by_ := .fsm) h hh hb hcrc).poll,
      fun w h => (response_fails (by_ := .fsm) h hh hb hcrc).poll⟩
  · intro s u e hpoll hn h ha hr
    have hrole := activityRole_of_poll hpoll
    obtain ⟨v, hv, rfl⟩ := errorEnd_of_step (by rw [hrole]; nofun) hn h ha hr
    rw [hrole]
    exact errorEnd_poll hv e

end Sys2Proof.Proofs.SessionFsm
end

section
/-! SUPPORT. The machine as a whole: reset, and the steps that run a command. -/

namespace Sys2Proof.Proofs.MachineSteps

open Sys2Proof Sys2Proof.Machine Sys2Proof.Safety Sys2Proof.Proofs.Exchange Sys2Proof.Proofs.Outcome

/-- Settles O50. -/
theorem resetLeavesTheResetValues : Obligations.ResetLeavesTheResetValues := fun r s hn =>
  ⟨resetState r (takeTurn s), step_reset hn, by simp [resetState]⟩

/-- Settles O51. -/
theorem resetStateHasTheSpecsValues : Obligations.ResetStateHasTheSpecsValues := by
  simp [Obligations.ResetStateHasTheSpecsValues, State.reset, Config.referenceCfg]

/-- The control loop's turn accepts the oldest command on the port and runs it (R22). -/
theorem step_of_accepted {i : Instr} {c : Command} {rest : List Command} {s : State} (ha : s.activity = .none)
    (hb : s.busy = false) (hn : nextTurn s = .mlb) (hp : s.port = c :: rest) (hi : decodeCommand c = .ok i) :
    step s = exec i (popPort (takeTurn s)) := by
  rw [step_mlb hn, mlbTurn_accept (s := takeTurn s) ha hb hp, accept_of_ok hi]

/-- Settles O55. -/
theorem stepRunsDecodedCommand : Obligations.StepRunsDecodedCommand := by
  intro i c rest s ha hb hn hp hi
  have hpop : popPort (takeTurn s) = { takeTurn s with port := rest } := by simp [popPort, hp]
  rw [step_of_accepted ha hb hn hp hi, hpop]

/-- A request frame run as an instruction is eight bytes, sent as they are (R77, log 13). -/
theorem exec_of_encode_outbound {i : Instr} {f : List Byte} (h : encode i = .outbound f) (s : State) :
    f.length = 8 ∧ exec i s = .next (startSend .command f s) := by
  cases i with
  | wreq | rreq => obtain rfl := Encoded.outbound.inj h; exact ⟨rfl, rfl⟩
  | crcInit | crcByte | buildWrite | buildRead | send | receive | wsr | rhr | evCard | evTick | wrsp | rrsp => cases h

theorem toList_ofFn_getD {f : List Byte} (h : f.length = 8) :
    (Vector.ofFn fun k : Fin 8 => f.getD k.val 0#8).toList = f := by
  refine List.ext_getElem (by simp [h]) fun k hk hk' => ?_
  simp [hk']

/-- The next step runs what is placed (log 1, log 13): the command, SEND of the frame, or the frame's arrival. -/
theorem step_placeEncoded {e : Encoded} {i : Instr} (h : decode e = .ok i) (s : State) :
    ∃ u, step (placeEncoded e s) = exec i u ∧ SessionSame s u ∧ OtherSame s u ∧ u.agenda = s.agenda ∧
      u.rxq = s.rxq ∧ u.uart = s.uart ∧ u.txTrace = s.txTrace := by
  cases e with
  | command c =>
    refine ⟨popPort (takeTurn (placeEncoded (.command c) s)), step_of_accepted rfl rfl rfl rfl h, ?_⟩
    simp [SessionSame, OtherSame, placeEncoded]
  | outbound f =>
    have hsend : decodeCommand (plainCommand (wordOp 0x20#8)) = .ok .send := by decide
    obtain ⟨hlen, hexec⟩ := exec_of_encode_outbound (Encoding.encode_of_decodeOutbound h)
      (popPort (takeTurn (placeEncoded (.outbound f) s)))
    refine ⟨popPort (takeTurn (placeEncoded (.outbound f) s)), ?_, ?_⟩
    · rw [step_of_accepted rfl rfl rfl rfl hsend, Transport.exec_send rfl, hexec]
      simp only [popPort_txBuf, takeTurn_txBuf, placeEncoded, toList_ofFn_getD hlen]
    · simp [SessionSame, OtherSame, placeEncoded]
  | inbound b =>
    have hi : decodeInbound b = .ok i := h
    refine ⟨takeTurn (placeEncoded (.inbound b) s), ?_, ?_⟩
    · rw [step_deliver (b := b) rfl]
      simp only [lineTurn, hi]
    · simp [SessionSame, OtherSame, placeEncoded]

/-- Settles O56. -/
theorem stepRunsPlacedTableWord : Obligations.StepRunsPlacedTableWord := by
  intro nbits w i s h
  rw [decodeTableWord] at h
  cases hd : decode (encodedOfTableWord nbits w) with
  | error e => rw [hd] at h; cases h
  | ok j =>
    rw [hd] at h
    obtain rfl : j = i := Option.some.inj h
    exact step_placeEncoded hd s

end Sys2Proof.Proofs.MachineSteps
end

section
/-! SUPPORT. Every hold ends, since the free schedule is fair (R9, 90_conflicts.md C8, log 4): a property that every
turn hands on holds if it holds where a fair agent has its turn. -/

namespace Sys2Proof.Proofs.Fairness

open Sys2Proof Sys2Proof.Machine Sys2Proof.Safety Sys2Proof.Proofs.Exchange Sys2Proof.Proofs.Outcome
open Sys2Proof.Proofs.Consistent

/-- The turn at the head of the agenda, or the free schedule's, has been taken. -/
def TurnTaken (s u : State) : Prop := u.agenda = s.agenda.tail ∧ u.turnCount = s.turnCount + 1

theorem turnTaken_takeTurn (s : State) : TurnTaken s (takeTurn s) := ⟨rfl, rfl⟩

/-- Where `W` is handed on from turn to turn, `G` follows from `G` at a turn that fairness gives: the agenda is finite,
and after it the turn comes again and again. -/
theorem of_fairTurn {W G : State → Prop} (f : FairTurn)
    (hand : ∀ s, W s → (∀ u, W u → TurnTaken s u → G u) → G s)
    (turn : ∀ s, W s → nextTurn s = f.turn → G s) : ∀ s, W s → G s := by
  have free : ∀ n s, W s → s.agenda = [] → freeTurn (s.turnCount + n) = f.turn → G s := by
    intro n
    induction n with
    | zero =>
      intro s hw hagenda hfree
      exact turn s hw (by simpa [nextTurn, hagenda] using hfree)
    | succ n ih =>
      intro s hw hagenda hfree
      refine hand s hw fun u hu ⟨hua, huc⟩ => ih u hu (by simp [hua, hagenda]) ?_
      rw [huc, Nat.add_assoc, Nat.add_comm 1 n]
      exact hfree
  have listed : ∀ n s, W s → s.agenda.length = n → G s := by
    intro n
    induction n with
    | zero =>
      intro s hw hlen
      obtain ⟨m, hm, hfree⟩ := freeTurn_again f s.turnCount
      exact free (m - s.turnCount) s hw (List.length_eq_zero_iff.mp hlen) (by rwa [Nat.add_sub_cancel' hm])
    | succ n ih =>
      intro s hw hlen
      exact hand s hw fun u hu ⟨hua, _⟩ => ih u hu (by simp [hua, hlen])
  exact fun s hw => listed s.agenda.length s hw rfl

/-! Sends (R78, R79). -/

theorem steps_one_more {k : Nat} {s u t : State} (h : step s = .next u) (hk : steps k u = .next t) :
    steps (k + 1) s = .next t := by
  rw [steps_succ_of_next h, hk]

/-- Where a check leaves the control loop: held in a receive, or not at all. -/
theorem activity_of_afterCheck {x : Receiver} {w : Window} {s t : State} (h : AfterCheck x w s t) :
    t.activity = .none ∨ ∃ y v, t.activity = .receiving y v := by
  induction h with
  | waits => exact .inr ⟨_, _, rfl⟩
  | timesOut => exact .inl (errorEnd_activity _ _ _)
  | fails => exact .inl (errorEnd_activity _ _ _)
  | received => exact .inl rfl
  | echoed _ ht => exact .inl (Timing.endWsr_ended ht).2
  | opensBody _ _ _ ih => exact ih
  | read => exact .inl (Timing.endRhr_ended _ _ _).2

theorem sendInProgress_of_sendContinue {x : Sender} {s t : State} (h : sendContinue x s = .next t) :
    sendInProgress t.activity = false := by
  have hcheck : ∀ {y w}, receiveContinue y w s = .next t → sendInProgress t.activity = false := by
    intro y w hy
    obtain ha | ⟨z, v, ha⟩ := activity_of_afterCheck (afterCheck_of_receiveContinue hy) <;> rw [ha] <;> rfl
  cases x with
  | command => exact Host.Outcome.next.inj h ▸ rfl
  | wsr a r v by_ => rw [sendContinue_wsr] at h; exact hcheck h
  | rhr a count by_ => rw [sendContinue_rhr] at h; exact hcheck h

/-- While a send is in progress, each turn ends it or is taken, and only the line touches the UART, which it drains. -/
theorem send_goes_on {s u : State} {x : Sender} (ha : s.activity = .sending x) (h : step s = .next u) :
    sendInProgress u.activity = false ∨
      u.activity = .sending x ∧ TurnTaken s u ∧ u.uart.length ≤ s.uart.length := by
  obtain ⟨-, ho, -⟩ | ⟨-, he⟩ | ⟨-, -, he⟩ | ⟨n, -, he⟩ | ⟨b, -, he⟩ | ⟨c, -, he⟩ | ⟨r, -, he⟩ := step_cases s
  · simp [checkOverdue, ha] at ho
  all_goals rw [he] at h
  · rw [mlbTurn_sending (s := takeTurn s) ha] at h
    split at h
    · exact .inl (sendInProgress_of_sendContinue h)
    · obtain rfl := Host.Outcome.next.inj h
      exact .inr ⟨ha, turnTaken_takeTurn s, Nat.le_refl _⟩
  · obtain rfl := Host.Outcome.next.inj h
    exact .inr ⟨ha, turnTaken_takeTurn s, Nat.le_refl _⟩
  · obtain rfl := Host.Outcome.next.inj h
    exact .inr ⟨ha, turnTaken_takeTurn s, by simp⟩
  · rw [lineTurn_eq] at h
    obtain rfl := Host.Outcome.next.inj h
    exact .inr ⟨ha, turnTaken_takeTurn s, Nat.le_refl _⟩
  · obtain rfl := Host.Outcome.next.inj h
    exact .inr ⟨ha, turnTaken_takeTurn s, Nat.le_refl _⟩
  · obtain rfl := Host.Outcome.next.inj h
    exact .inl rfl

/-- A run from `s` comes to the end of its send, with DE = 0. -/
def SendEnds (s : State) : Prop := ∃ k t, steps k s = .next t ∧ sendInProgress t.activity = false ∧ t.de = false

theorem sendEnds_of_step {s u : State} (h : step s = .next u) (hu : SendEnds u) : SendEnds s := by
  obtain ⟨k, t, hk, ht⟩ := hu
  exact ⟨k + 1, t, steps_one_more h hk, ht⟩

theorem sendEnds_of_ended {s : State} (hs : StateOk s) (h : sendInProgress s.activity = false) : SendEnds s :=
  ⟨0, s, rfl, h, hs.de_eq.trans h⟩

/-- A consistent state in the send `x`, with at most `n` bytes still in the UART. -/
def Sending (x : Sender) (n : Nat) (s : State) : Prop := StateOk s ∧ s.activity = .sending x ∧ s.uart.length ≤ n

/-- A turn of a send hands on what is to be shown. -/
theorem sendEnds_of_turn {x : Sender} {n : Nat} {s : State} (hs : Sending x n s)
    (hnext : ∀ u, step s = .next u → Sending x n u → TurnTaken s u → SendEnds u) : SendEnds s := by
  obtain ⟨hok, ha, hn⟩ := hs
  obtain ⟨u, hstep⟩ := consistentStateNeverStops s hok
  have huok := stepKeepsStateConsistent s u hok hstep
  refine sendEnds_of_step hstep ?_
  obtain hended | ⟨hua, htaken, hle⟩ := send_goes_on ha hstep
  · exact sendEnds_of_ended huok hended
  · exact hnext u hstep ⟨huok, hua, hle.trans hn⟩ htaken

/-- Every send ends: turn by turn of the drain its bytes leave the UART, and then the control loop goes on. -/
theorem sendEnds (x : Sender) (n : Nat) : ∀ s, Sending x n s → SendEnds s := by
  induction n with
  | zero =>
    refine of_fairTurn .mlb (fun s hs hnext => sendEnds_of_turn hs fun u _ => hnext u) fun s hs hturn => ?_
    obtain ⟨hok, ha, hempty⟩ := hs
    have huart : s.uart = [] := List.length_eq_zero_iff.mp (Nat.le_zero.mp hempty)
    obtain ⟨u, hstep⟩ := consistentStateNeverStops s hok
    refine sendEnds_of_step hstep (sendEnds_of_ended (stepKeepsStateConsistent s u hok hstep) ?_)
    exact sendInProgress_of_sendContinue ((step_of_sendOver ⟨ha, huart, hturn⟩).symm.trans hstep)
  | succ n ih =>
    refine of_fairTurn .drain (fun s hs hnext => sendEnds_of_turn hs fun u _ => hnext u) fun s hs hturn => ?_
    obtain ⟨hok, ha, hlen⟩ := hs
    have hstep : step s = .next (drainUart 1 (takeTurn s)) := step_drain hturn
    have hle : (drainUart 1 (takeTurn s)).uart.length ≤ n := by simp; omega
    exact sendEnds_of_step hstep (ih _ ⟨stepKeepsStateConsistent s _ hok hstep, ha, hle⟩)

/-- Settles O22. -/
theorem sendHoldsUntilDrained : Obligations.SendHoldsUntilDrained := by
  refine ⟨fun s x ha huart hn => ?_, fun s hs hsend => ?_⟩
  · have hwaits : txFlushed (takeTurn s) = false := by simpa [txFlushed] using huart
    rw [step_mlb hn, mlbTurn_sending (s := takeTurn s) ha, hwaits, if_neg Bool.false_ne_true]
  · cases ha : s.activity with
    | sending x => exact sendEnds x s.uart.length s ⟨hs, ha, Nat.le_refl _⟩
    | none | receiving => rw [ha] at hsend; cases hsend

/-! Receives (R80 to R82). -/

/-- The time since a moment, by way of a moment in between. -/
theorem elapsed_le_add (now between start : Ms) :
    (elapsed now start).toNat ≤ (elapsed now between).toNat + (elapsed between start).toNat := by
  unfold elapsed
  bv_omega

/-- No check sees more time in its window than the limit and the bound between checks allow (R82). -/
theorem elapsed_le_band {s : State} {x : Receiver} {w : Window} (ht : TimingOk s) (ha : s.activity = .receiving x w) :
    (elapsed s.now w.t0).toNat ≤ w.limit.toNat - 1 + s.params.rxPollMaxMs := by
  obtain ⟨hin, hbound⟩ := ht x w ha
  have hsum := elapsed_le_add s.now w.checkedAt w.t0
  have hlt : (elapsed w.checkedAt w.t0).toNat < w.limit.toNat := hin
  omega

/-- The receive lacks bytes that do not wait in RXQ either. -/
def Short (w : Window) (s : State) : Prop := w.got.length + s.rxq.length < w.need

/-- What a check leads to, as far as the end of its command goes: it ends it, in Timeout if the bytes are short; it
yields; or, with the bytes of a header there, it opens the body's window. -/
theorem ended_or_held_of_afterCheck {x : Receiver} {w : Window} {s t : State} (h : AfterCheck x w s t) :
    (t.activity = .none ∧ (Short w s → t.res = .error .timeout ∧ t.rxLen = 0#7)) ∨
      (∃ v, checkWindow w s = .wait v ∧ t = hold (.receiving x v) (takeRx w s)) ∨
      ¬Short w s ∧ (∃ a c b, x = .header a c b) ∧ ∃ c g b v, t.activity = .receiving (.body c g b) v := by
  have hbytes : ∀ {g}, checkWindow w s = .bytes g → ¬Short w s := by
    intro g hc hshort
    obtain ⟨rfl, hlen⟩ := checkWindow_bytes hc
    have : (bytesTaken w s).length ≤ w.got.length + s.rxq.length := by simp [bytesTaken]
    exact absurd hlen (by unfold Short at hshort; omega)
  cases h with
  | waits hc => exact .inr (.inl ⟨_, hc, rfl⟩)
  | timesOut => exact .inl ⟨errorEnd_activity _ _ _, fun _ => ⟨errorEnd_res _ _ _, errorEnd_rxLen _ _ _⟩⟩
  | fails e hc => exact .inl ⟨errorEnd_activity _ _ _, fun hs => absurd hs (hbytes hc)⟩
  | received hc => exact .inl ⟨rfl, fun hs => absurd hs (hbytes hc)⟩
  | echoed hc ht => exact .inl ⟨(Timing.endWsr_ended ht).2, fun hs => absurd hs (hbytes hc)⟩
  | @opensBody _ _ _ g a count by_ hc hv ht =>
    cases ht with
    | waits => exact .inr (.inr ⟨hbytes hc, ⟨a, count, by_, rfl⟩, count, g, by_, _, rfl⟩)
    | timesOut => exact .inl ⟨errorEnd_activity _ _ _, fun hs => absurd hs (hbytes hc)⟩
    | fails => exact .inl ⟨errorEnd_activity _ _ _, fun hs => absurd hs (hbytes hc)⟩
    | read => exact .inl ⟨(Timing.endRhr_ended _ _ _).2, fun hs => absurd hs (hbytes hc)⟩
  | read hc => exact .inl ⟨(Timing.endRhr_ended _ _ _).2, fun hs => absurd hs (hbytes hc)⟩

/-- A check that yields has taken bytes, but neither more nor fewer are there. -/
theorem short_hold_of_wait {x : Receiver} {w v : Window} {s : State} (hc : checkWindow w s = .wait v)
    (h : Short w s) : Short v (hold (.receiving x v) (takeRx w s)) := by
  obtain ⟨rfl, -, -⟩ := checkWindow_wait hc
  unfold Short at *
  simp only [bytesTaken, List.length_append, List.length_take, hold_rxq, takeRx_rxq, List.length_drop]
  omega

/-- A consistent state with the receive `x` open in the window `w`, within the bounds of R4. -/
structure Receiving (x : Receiver) (w : Window) (s : State) : Prop where
  ok : StateOk s
  timing : TimingOk s
  params : ParamsOk s
  held : s.activity = .receiving x w
  bound : w.limit.toNat + s.params.rxPollMaxMs < 2 ^ 32

/-- The receive of `s` comes to the end of its command: in Timeout, if its bytes are short and the line is silent. -/
def ReceiveEnds (s : State) : Prop :=
  ∃ k t, steps k s = .next t ∧ t.activity = .none ∧
    ∀ x w, s.activity = .receiving x w → Short w s → silentFor k s → t.res = .error .timeout ∧ t.rxLen = 0#7

/-- Neither does the line deliver nor is the machine reset in the next turn. -/
def SilentTurn (s : State) : Prop := (∀ b, nextTurn s ≠ .deliver b) ∧ ∀ r, nextTurn s ≠ .reset r

theorem silentTurn_of_silentFor {k : Nat} {s : State} (h : silentFor (k + 1) s) : SilentTurn s :=
  h 0 s (Nat.succ_pos k) rfl

theorem silentFor_of_step {k : Nat} {s u : State} (h : silentFor (k + 1) s) (hs : step s = .next u) :
    silentFor k u := fun j v hj hv => h (j + 1) v (Nat.succ_lt_succ hj) (steps_one_more hs hv)

theorem receiveEnds_of_ended {x : Receiver} {w : Window} {s u : State} (ha : s.activity = .receiving x w)
    (h : step s = .next u) (hu : u.activity = .none)
    (hres : Short w s → SilentTurn s → u.res = .error .timeout ∧ u.rxLen = 0#7) : ReceiveEnds s := by
  refine ⟨1, u, (steps_one s).trans h, hu, fun y v hy hshort hsilent => ?_⟩
  obtain ⟨-, rfl⟩ := Activity.receiving.inj (ha.symm.trans hy)
  exact hres hshort (silentTurn_of_silentFor hsilent)

theorem receiveEnds_of_step {x y : Receiver} {w v : Window} {s u : State} (ha : s.activity = .receiving x w)
    (h : step s = .next u) (hu : ReceiveEnds u) (hau : u.activity = .receiving y v)
    (hshort : Short w s → SilentTurn s → Short v u) : ReceiveEnds s := by
  obtain ⟨k, t, hk, ht, hres⟩ := hu
  refine ⟨k + 1, t, steps_one_more h hk, ht, fun z p hz hs hsilent => ?_⟩
  obtain ⟨-, rfl⟩ := Activity.receiving.inj (ha.symm.trans hz)
  exact hres y v hau (hshort hs (silentTurn_of_silentFor hsilent)) (silentFor_of_step hsilent h)

/-- A step that is no reset and leaves a receive open keeps all that is asked of it but the window's own bound. -/
theorem Receiving.of_step {x y : Receiver} {w v : Window} {s u : State} (hs : Receiving x w s)
    (h : step s = .next u) (hr : ¬resetTurn s) (ha : u.activity = .receiving y v)
    (hb : v.limit.toNat + s.params.rxPollMaxMs < 2 ^ 32) : Receiving y v u := by
  obtain ⟨hcfg, hparams, -⟩ := Frame.onlyTheirOwnersWriteRegisters.2 s u hr h
  have hp := hs.params
  exact ⟨stepKeepsStateConsistent s u hs.ok h, Timing.stepKeepsReceiveTiming s u hs.timing h,
    ⟨hparams ▸ hp.capacity_pos, hparams ▸ hp.poll_pos, hcfg ▸ hparams ▸ hp.read_bound,
      hcfg ▸ hparams ▸ hp.write_bound⟩, ha, hparams ▸ hb⟩

/-- The body's window has the limit CFG.readTimeoutMs, which R4 bounds. -/
theorem Receiving.body {x : Receiver} {w v : Window} {s u : State} {c : Word} {g : List Byte} {b : Caller}
    (hs : Receiving x w s) (h : step s = .next u) (hr : ¬resetTurn s)
    (ha : u.activity = .receiving (.body c g b) v) : Receiving (.body c g b) v u := by
  obtain ⟨hcfg, -⟩ := Frame.onlyTheirOwnersWriteRegisters.2 s u hr h
  have hops := (stepKeepsStateConsistent s u hs.ok h).activity_ok
  rw [ha] at hops
  obtain ⟨-, -, -, -, hlimit, -⟩ := hops
  refine hs.of_step h hr ha ?_
  rw [hlimit, hcfg]
  exact hs.params.read_bound

/-- The turn has been taken, and the clock has moved if it was the clock's; the window is the same one. -/
structure WindowGoesOn (w v : Window) (s u : State) : Prop where
  limit_eq : v.limit = w.limit
  t0_eq : v.t0 = w.t0
  taken : TurnTaken s u
  now_eq : u.now = if nextTurn s = .clock then s.now + 1#32 else s.now

theorem not_resetTurn {s : State} {t : Turn} (h : nextTurn s = t) (ht : ∀ r, t ≠ .reset r) : ¬resetTurn s := by
  rintro ⟨r, hr⟩
  exact ht r (h.symm.trans hr)

theorem nextTurn_of_same {s u : State} (ha : u.agenda = s.agenda) (hc : u.turnCount = s.turnCount) :
    nextTurn u = nextTurn s := by
  rw [nextTurn, nextTurn, ha, hc]

section
variable {x : Receiver} {w : Window} {s : State}

/-- A check of the control loop, at its turn or before an overdue clock's. -/
theorem receiveEnds_of_check {s' : State} (hs : Receiving x w s) (hr : ¬resetTurn s) (hq : s'.rxq = s.rxq)
    (h : step s = receiveContinue x w s')
    (hbody : (∃ a c b, x = .header a c b) → ∀ c g b v u, Receiving (.body c g b) v u → ReceiveEnds u)
    (hwait : ∀ v, checkWindow w s' = .wait v → step s = .next (hold (.receiving x v) (takeRx w s')) →
      ReceiveEnds (hold (.receiving x v) (takeRx w s'))) : ReceiveEnds s := by
  have hshort : Short w s → Short w s' := fun hs => by rwa [Short, hq]
  obtain ⟨u, hstep⟩ := consistentStateNeverStops s hs.ok
  obtain ⟨hended, hres⟩ | ⟨v, hc, rfl⟩ | ⟨hnot, hx, c, g, b, v, hau⟩ :=
    ended_or_held_of_afterCheck (afterCheck_of_receiveContinue (h.symm.trans hstep))
  · exact receiveEnds_of_ended hs.held hstep hended fun hs _ => hres (hshort hs)
  · exact receiveEnds_of_step hs.held hstep (hwait v hc hstep) rfl fun hs _ => short_hold_of_wait hc (hshort hs)
  · exact receiveEnds_of_step hs.held hstep (hbody hx c g b v u (hs.body hstep hr hau)) hau
      fun hs _ => absurd (hshort hs) hnot

/-- A turn of another agent than the control loop. -/
theorem receiveEnds_of_quiet {u : State} (hs : Receiving x w s) (hr : ¬resetTurn s) (h : step s = .next u)
    (ha : u.activity = s.activity) (hq : SilentTurn s → u.rxq = s.rxq)
    (hu : Receiving x w u → ReceiveEnds u) : ReceiveEnds s := by
  have hau : u.activity = .receiving x w := ha.trans hs.held
  exact receiveEnds_of_step hs.held h (hu (hs.of_step h hr hau hs.bound)) hau
    fun hshort hsilent => by rwa [Short, hq hsilent]

/-- Each turn of an open receive ends its command, or hands on what is to be shown: of the window that goes on, and
where the header is there of every body's window. An overdue check and the clock's turn after it count as one. -/
theorem receiveEnds_of_turn (hs : Receiving x w s)
    (hbody : (∃ a c b, x = .header a c b) → ∀ c g b v u, Receiving (.body c g b) v u → ReceiveEnds u)
    (hnext : ∀ u v, Receiving x v u → WindowGoesOn w v s u → ReceiveEnds u) : ReceiveEnds s := by
  cases hn : nextTurn s with
  | mlb =>
    have hr := not_resetTurn hn (by simp)
    refine receiveEnds_of_check (s' := takeTurn s) hs hr rfl ((step_mlb hn).trans (mlbTurn_receiving (s := takeTurn s) hs.held)) hbody ?_
    intro v hc hstep
    obtain ⟨rfl, -⟩ := checkWindow_wait hc
    exact hnext _ _ (hs.of_step hstep hr rfl hs.bound) ⟨rfl, rfl, ⟨rfl, rfl⟩, by simp [hn]⟩
  | clock =>
    have hr := not_resetTurn hn (by simp)
    cases ho : checkOverdue s with
    | false =>
      refine receiveEnds_of_quiet hs hr (step_clock hn ho) rfl (fun _ => rfl) fun hu => ?_
      exact hnext _ w hu ⟨rfl, rfl, ⟨rfl, rfl⟩, by simp [hn]⟩
    | true =>
      refine receiveEnds_of_check hs hr rfl ((step_overdue hn ho).trans (mlbTurn_receiving hs.held)) hbody ?_
      intro v hc hstep
      obtain ⟨rfl, -⟩ := checkWindow_wait hc
      have hu := hs.of_step hstep hr rfl hs.bound
      have hturn := (nextTurn_of_same rfl rfl).trans hn
      have hchecked : checkOverdue (hold (.receiving x { w with got := bytesTaken w s, checkedAt := s.now })
          (takeRx w s)) = false := by
        have := hs.params.poll_pos
        simp [checkOverdue, elapsed]
        omega
      have hru := not_resetTurn hturn (by simp)
      refine receiveEnds_of_quiet hu hru (step_clock hturn hchecked) rfl (fun _ => rfl) fun hv => ?_
      exact hnext _ _ hv ⟨rfl, rfl, ⟨rfl, rfl⟩, by simp [hn]⟩
  | drain n =>
    have hr := not_resetTurn hn (by simp)
    refine receiveEnds_of_quiet hs hr (step_drain hn) rfl (fun _ => rfl) fun hu => ?_
    exact hnext _ w hu ⟨rfl, rfl, ⟨rfl, rfl⟩, by simp [hn]⟩
  | present c =>
    have hr := not_resetTurn hn (by simp)
    refine receiveEnds_of_quiet hs hr (step_present hn) rfl (fun _ => rfl) fun hu => ?_
    exact hnext _ w hu ⟨rfl, rfl, ⟨rfl, rfl⟩, by simp [hn]⟩
  | deliver b =>
    have hr := not_resetTurn hn (by simp)
    refine receiveEnds_of_quiet hs hr ((step_deliver hn).trans (lineTurn_eq b _)) rfl
      (fun hsilent => absurd hn (hsilent.1 b)) fun hu => ?_
    exact hnext _ w hu ⟨rfl, rfl, ⟨rfl, rfl⟩, by simp [hn]⟩
  | reset r =>
    exact receiveEnds_of_ended hs.held (step_reset hn) rfl fun _ hsilent => absurd hn (hsilent.2 r)

/-- At most `d` milliseconds of the window are left. -/
def TimeLeft (d : Nat) (w : Window) (s : State) : Prop := w.limit.toNat ≤ (elapsed s.now w.t0).toNat + d

/-- A tick within R4's bounds does not wrap. -/
theorem elapsed_tick (hs : Receiving x w s) :
    (elapsed (s.now + 1#32) w.t0).toNat = (elapsed s.now w.t0).toNat + 1 := by
  have hband := elapsed_le_band hs.timing hs.held
  have hin := (hs.timing x w hs.held).1
  have hpos : 0 < w.limit.toNat := Nat.lt_of_le_of_lt (Nat.zero_le _) hin
  have hbound := hs.bound
  have hlt : (elapsed s.now w.t0).toNat + 1 < 2 ^ 32 := by omega
  unfold elapsed at *
  bv_omega

theorem TimeLeft.goes_on {d : Nat} {v : Window} {u : State} (hs : Receiving x w s) (hd : TimeLeft d w s)
    (h : WindowGoesOn w v s u) : TimeLeft d v u := by
  unfold TimeLeft at *
  rw [h.limit_eq, h.t0_eq, h.now_eq]
  split
  · rw [elapsed_tick hs]; omega
  · exact hd

theorem TimeLeft.tick {d : Nat} {v : Window} {u : State} (hs : Receiving x w s) (hd : TimeLeft (d + 1) w s)
    (hn : nextTurn s = .clock) (h : WindowGoesOn w v s u) : TimeLeft d v u := by
  unfold TimeLeft at *
  rw [h.limit_eq, h.t0_eq, h.now_eq, if_pos hn, elapsed_tick hs]
  omega

/-- A check at or past the limit does not yield. -/
theorem checkWindow_ne_wait {v : Window} (hd : TimeLeft 0 w s) : checkWindow w s ≠ .wait v := by
  intro hc
  obtain ⟨-, -, hin⟩ := checkWindow_wait hc
  have hlt : (elapsed s.now w.t0).toNat < w.limit.toNat := hin
  unfold TimeLeft at hd
  omega

end

/-- Every receive ends, if every body receive that may follow it does: tick by tick its time passes, and then the
control loop checks. -/
theorem receiveEnds_within (x : Receiver)
    (hbody : (∃ a c b, x = .header a c b) → ∀ c g b v u, Receiving (.body c g b) v u → ReceiveEnds u) (d : Nat) :
    ∀ s, (∃ w, Receiving x w s ∧ TimeLeft d w s) → ReceiveEnds s := by
  have hand : ∀ d s, (∃ w, Receiving x w s ∧ TimeLeft d w s) →
      (∀ u, (∃ w, Receiving x w u ∧ TimeLeft d w u) → TurnTaken s u → ReceiveEnds u) → ReceiveEnds s := by
    rintro d s ⟨w, hs, hd⟩ hnext
    exact receiveEnds_of_turn hs hbody fun u v hu hg => hnext u ⟨v, hu, hd.goes_on hs hg⟩ hg.taken
  induction d with
  | zero =>
    refine of_fairTurn .mlb (hand 0) ?_
    rintro s ⟨w, hs, hd⟩ hn
    have hturn : nextTurn s = .mlb := hn
    have hr := not_resetTurn hturn (by simp)
    refine receiveEnds_of_check (s' := takeTurn s) hs hr rfl ((step_mlb hturn).trans (mlbTurn_receiving (s := takeTurn s) hs.held)) hbody ?_
    exact fun v hc => absurd hc (checkWindow_ne_wait (s := takeTurn s) hd)
  | succ d ih =>
    refine of_fairTurn .clock (hand (d + 1)) ?_
    rintro s ⟨w, hs, hd⟩ hn
    exact receiveEnds_of_turn hs hbody fun u v hu hg => ih u ⟨v, hu, hd.tick hs hn hg⟩

theorem receiveEnds_of_timeLeft {x : Receiver} {w : Window} {s : State} (hs : Receiving x w s)
    (hbody : (∃ a c b, x = .header a c b) → ∀ c g b v u, Receiving (.body c g b) v u → ReceiveEnds u) :
    ReceiveEnds s :=
  receiveEnds_within x hbody w.limit.toNat s ⟨w, hs, Nat.le_add_left _ _⟩

/-- Every receive ends: a body's directly, and so a header's. -/
theorem receiveEnds {x : Receiver} {w : Window} {s : State} (hs : Receiving x w s) : ReceiveEnds s :=
  receiveEnds_of_timeLeft hs fun _ _ _ _ _ _ hu => receiveEnds_of_timeLeft hu (by rintro ⟨a, c, b, hx⟩; cases hx)

/-- Settles O28. -/
theorem receiveNeverEndsOutsideItsBand : Obligations.ReceiveNeverEndsOutsideItsBand := by
  refine ⟨fun s x w ht ha _ => ⟨elapsed_le_band ht ha, checkWindow_timeout⟩, fun s x w hok ht hp ha hb => ?_⟩
  obtain ⟨k, t, hk, hended, hres⟩ := receiveEnds ⟨hok, ht, hp, ha, hb⟩
  exact ⟨k, t, hk, hended, hres x w ha⟩

end Sys2Proof.Proofs.Fairness
end
